-- ==== Sys2Proof/Word.lean ====
section
/-! DEFINITION. The widths of 00_scope.md R7 and 10_state.md R25 as bit-vector types. -/

namespace Sys2Proof

/-- A 32-bit interface word: CMD, RESULT, STATUS (10_state.md R25). -/
abbrev Word := BitVec 32

/-- The 10-bit master key (00_scope.md R7). -/
abbrev MasterKey := BitVec 10

/-- An 8-bit subkey (00_scope.md R7). -/
abbrev Subkey := BitVec 8

/-- An 8-bit block (00_scope.md R7). -/
abbrev Block := BitVec 8

/-- A 4-bit half-block (00_scope.md R7). -/
abbrev Nibble := BitVec 4

/-- A 5-bit key half (00_scope.md R7). -/
abbrev KeyHalf := BitVec 5

end Sys2Proof
end

