-- ==== Sys2Proof/Config.lean ====
section
/-! DEFINITION. The configuration record of 00_scope.md R8: the eight constant tables of one instance. Their default
contents and the well-formedness of a record stand in Machine/Tables.lean. -/

namespace Sys2Proof

/-- A table position of a W-bit value. 00_scope.md R13 numbers positions 1 to W from the most significant bit; position
p is held as the index p - 1, so an entry outside its range (R9 (a)) cannot be written. -/
abbrev Position (W : Nat) := Fin W

/-- A 4 x 4 grid of 2-bit values, row 0 first and column 0 first in each row (00_scope.md R8, 42_sbox.md R150). -/
abbrev Grid := Vector (Vector (BitVec 2) 4) 4

/-- 00_scope.md R8: the fields and shapes of the configuration record. Output position 1 is a table's first entry. -/
structure Tables where
  P10 : Vector (Position 10) 10
  P8 : Vector (Position 10) 8
  P4 : Vector (Position 4) 4
  EP : Vector (Position 4) 8
  IP : Vector (Position 8) 8
  IPINV : Vector (Position 8) 8
  S0 : Grid
  S1 : Grid
  deriving DecidableEq, Repr

end Sys2Proof
end

