-- ==== Sys2Proof/Machine/Tables.lean ====
section
/-! DEFINITION. The default contents of the constant tables (40_permutation.md R101, 42_sbox.md R151) and the
well-formedness of a record (00_scope.md R9). -/

namespace Sys2Proof

/-- The position that 00_scope.md R13 numbers p, for p in [1, W]. -/
def position (W : Nat) [NeZero W] (p : Nat) : Position W := Fin.ofNat W (p - 1)

/-- The table whose output positions 1, 2, ... hold the given input positions, numbered from 1 as the spec writes them. -/
def tableOf (W : Nat) [NeZero W] (entries : List Nat) : Vector (Position W) entries.length :=
  ⟨(entries.map (position W)).toArray, by simp⟩

/-- PRESUMED (log 1, unsafe): the standard S-DES tables, which 40_permutation.md R101 and 42_sbox.md R151 supply from
general knowledge as the default record. Entries are written as the spec writes them, position 1 being the most
significant bit. -/
def Tables.sdes : Tables where
  P10 := tableOf 10 [3, 5, 2, 7, 4, 10, 1, 9, 8, 6]
  P8 := tableOf 10 [6, 3, 7, 4, 8, 5, 10, 9]
  P4 := tableOf 4 [2, 4, 3, 1]
  EP := tableOf 4 [4, 1, 2, 3, 2, 3, 4, 1]
  IP := tableOf 8 [2, 6, 3, 1, 4, 8, 5, 7]
  IPINV := tableOf 8 [4, 1, 3, 5, 7, 2, 8, 6]
  S0 := #v[#v[1, 0, 3, 2], #v[3, 2, 1, 0], #v[0, 2, 1, 3], #v[3, 1, 3, 2]]
  S1 := #v[#v[0, 1, 2, 3], #v[2, 0, 1, 3], #v[3, 0, 1, 0], #v[2, 1, 0, 3]]

/-- 00_scope.md R9 (b): the table lists every position of its input exactly once. -/
abbrev ListsEachOnce {W n : Nat} (t : Vector (Position W) n) : Prop := ∀ p : Position W, t.toList.count p = 1

/-- 00_scope.md R9 (c): `ip[ipinv[j]] = j` for every position j. -/
abbrev IsInverseTable (ip ipinv : Vector (Position 8) 8) : Prop := ∀ j : Fin 8, ip[ipinv[j]] = j

/-- 00_scope.md R9 (d): the table lists every position of its input at least once. -/
abbrev ListsEach {W n : Nat} (t : Vector (Position W) n) : Prop := ∀ p : Position W, p ∈ t.toList

/-- 00_scope.md R9: a well-formed record. Clause (a), the range of every entry, holds by the type `Position`. -/
abbrev Tables.WellFormed (T : Tables) : Prop :=
  ListsEachOnce T.P10 ∧ ListsEachOnce T.P4 ∧ ListsEachOnce T.IP ∧ IsInverseTable T.IP T.IPINV ∧ ListsEach T.EP

/-- The record the modelled instance is built with (70_reset_and_hazards.md R403): the default of 00_scope.md R8. -/
def Config.tables : Tables := Tables.sdes

end Sys2Proof
end

