-- ==== Sys2Proof/Machine/State.lean ====
section
/-! DEFINITION. The state of one S-DES CORE instance (10_state.md R38), the pins of its interface (R25), its constant
tables (R37), and the schedule that says which agent moves next (R24, 20_memory.md R58). -/

namespace Sys2Proof.Machine

/-- 10_state.md R38: the complete state of one instance. "Nothing else is state." -/
structure CoreState where
  CMDLATCH : BitVec 32
  RESULT : BitVec 32
  BUSY : Bool
  VALID : Bool
  ILL : Bool
  CAUSE : BitVec 4
  deriving DecidableEq, Repr

/-- 10_state.md R39: the reset value of every piece of state. -/
def CoreState.reset : CoreState where
  CMDLATCH := 0
  RESULT := 0
  BUSY := false
  VALID := false
  ILL := false
  CAUSE := 0

/-- A register the host reads as a whole word (10_state.md R25). -/
inductive ReadRegister where
  | result
  | status
  deriving DecidableEq, Repr

/-- A width below the 32 bits of an interface word (20_memory.md R55). -/
inductive PartialWidth where
  | byte
  | halfWord
  deriving DecidableEq, Repr

/-- One event of an instance's total order (20_memory.md R58): a turn of the core agent, or an act of the host. Which
agent moves next is the head of the schedule (DESIGN CHOICE, log 3). -/
inductive Event where
  /-- The core agent's turn: it completes the command it holds (10_state.md R35) or takes a held offer (R26). -/
  | core
  /-- The host offers a word on CMD (10_state.md R26). -/
  | write (w : Word)
  /-- The host drops the word it is offering (70_reset_and_hazards.md R412). -/
  | withdraw
  /-- The host reads RESULT as a whole word (10_state.md R36). -/
  | readResult
  /-- The host reads STATUS as a whole word (10_state.md R36). -/
  | readStatus
  /-- The host reads CMD_READY (10_state.md R25, R36). -/
  | readReady
  /-- The RST input is driven to a level (10_state.md R25, 70_reset_and_hazards.md R400). -/
  | rst (level : Bool)
  /-- A read of part of RESULT or STATUS (20_memory.md R55). -/
  | partialRead (register : ReadRegister) (width : PartialWidth)
  /-- A write of part of CMD (20_memory.md R55). -/
  | partialWrite (width : PartialWidth)
  deriving DecidableEq, Repr

/-- What a host read returned (10_state.md R36), and whether it was a read after a completion (70_reset_and_hazards.md
R417; log 7). -/
inductive HostRead where
  | result (value : Word) (completed : Bool)
  | status (value : Word) (completed : Bool)
  | ready (value : Bool)
  deriving DecidableEq, Repr

/-- One instance, its pins and its schedule. `core` is the spec's state (10_state.md R38); `tables` is the instance's ROM
(R37, R39; log 2), which no step writes; `rst` and `cmd` are the levels of the host's RST and CMD outputs (R25; logs 5
and 6); `sched` (log 3) and `reads` (logs 7 and 14) are the model's own. -/
structure State where
  core : CoreState
  tables : Tables
  rst : Bool
  cmd : Option Word
  sched : List Event
  reads : List HostRead
  deriving DecidableEq, Repr

/-- The machine right after reset: 10_state.md R39, 70_reset_and_hazards.md R402. The pin `rst` is released, no word is
offered, and nothing is scheduled or read (logs 3, 5, 6, 7); the tables are the default record (00_scope.md R8; log 1). -/
def State.reset : State where
  core := CoreState.reset
  tables := Config.tables
  rst := false
  cmd := none
  sched := []
  reads := []

/-- The reasons the machine stops with a fault. There are none: the only exception is IllegalCommand, which is a defined
step (60_exceptions.md R301, R306), and no unit function raises one (R300). -/
inductive Fault where
  deriving DecidableEq, Repr

/-- The reasons a step has no meaning. -/
inductive Refusal where
  /-- An instruction whose meaning is not written; safe. No arm of `exec` answers it. -/
  | notModelled (mnemonic : String)
  /-- Raised by `partialRead` and `partialWrite` events: "A model refuses it" (20_memory.md R55, 60_exceptions.md R306);
  safe (log 8). -/
  | partialWidthAccess
  /-- Raised by `step` when the instance's tables are not well-formed (60_exceptions.md R306, 00_scope.md R9); safe
  (log 9). -/
  | illFormedTables
  deriving DecidableEq, Repr

/-- What a meaning, an event and a step answer. -/
abbrev Result := Host.Outcome State Fault Refusal

end Sys2Proof.Machine
end

