-- ==== Sys2Proof/Syntax.lean ====
section
/-! DEFINITION. The command set as syntax: one constructor per row of spec/opcode_table.json, the cause codes of an
illegal command, and the rotation amounts the spec defines. -/

namespace Sys2Proof

/-- The sixteen commands of 30_encoding.md R72, each with its operand fields at their own widths (R81). Operands stand in
the order of the assembler syntax (R87). -/
inductive Instr where
  | genkey (key : MasterKey)
  | enc (sk1 sk2 : Subkey) (blk : Block)
  | dec (sk1 sk2 : Subkey) (blk : Block)
  | fk (sk : Subkey) (blk : Block)
  | sw (blk : Block)
  | f (sk : Subkey) (nib : Nibble)
  | sbox0 (nib : Nibble)
  | sbox1 (nib : Nibble)
  | p10 (din : BitVec 10)
  | p8 (din : BitVec 10)
  | p4 (din : BitVec 4)
  | ep (din : BitVec 4)
  | ip (din : Block)
  | ipinv (din : Block)
  | ls5 (amt : BitVec 3) (din : KeyHalf)
  | ls10 (amt : BitVec 3) (din : BitVec 10)
  deriving DecidableEq, Repr

/-- The causes of an illegal command, in the priority order of 60_exceptions.md R303. `NONE` (code 0) is the value of
STATUS.CAUSE when there is no cause, so it is no constructor. -/
inductive Cause where
  | rsvdOp
  | rsvdTsel
  | badAmt
  | rsvdBits
  deriving DecidableEq, Repr

/-- The rotation amounts for which the circular shift is defined: `0 < n < 5` (41_key_schedule.md R130). -/
inductive Amount where
  | one
  | two
  | three
  | four
  deriving DecidableEq, Repr

end Sys2Proof
end

