-- ==== Sys2Proof/Machine/Flags.lean ====
section
/-! DEFINITION. The STATUS register as the host reads it, its field CAUSE and the CMD_READY output (10_state.md R25,
R28 to R33, R38; 60_exceptions.md R302). The core has no condition codes (10_state.md R22), so this is every flag. -/

namespace Sys2Proof

/-- 60_exceptions.md R302: the code of a cause. -/
def Cause.code : Cause → BitVec 4
  | .rsvdOp => 1
  | .rsvdTsel => 2
  | .badAmt => 3
  | .rsvdBits => 4

namespace Machine

/-- 60_exceptions.md R302: code 0, `NONE`. -/
def causeNone : BitVec 4 := 0

/-- 10_state.md R38: the STATUS read value, `zext_32(CAUSE ++ 0b0 ++ ILL ++ VALID ++ BUSY)`. -/
def CoreState.status (c : CoreState) : Word :=
  (c.CAUSE ++ 0#1 ++ BitVec.ofBool c.ILL ++ BitVec.ofBool c.VALID ++ BitVec.ofBool c.BUSY).setWidth 32

/-- 20_memory.md R59: the last issued command has completed, which is BUSY = 0 and VALID = 1. -/
def CoreState.completed (c : CoreState) : Bool := !c.BUSY && c.VALID

/-- 10_state.md R25: CMD_READY is `not STATUS.BUSY`, and 0 while RST = 1 (70_reset_and_hazards.md R400; log 5). -/
def State.cmdReady (s : State) : Bool := !s.rst && !s.core.BUSY

end Machine
end Sys2Proof
end

