-- ==== Sys2Proof/Machine/Operands.lean ====
section
/-! DEFINITION. The bit-field notation of 00_scope.md R12 to R15 and the operand fields of the command formats
(30_encoding.md R71, R73 to R81): every field is taken as it stands, at its own width. -/

namespace Sys2Proof

/-- 00_scope.md R13: position p of a W-bit value is bit W - p; with the index p - 1 that is bit W - 1 - index. -/
def posBit {W : Nat} (v : BitVec W) (p : Fin W) : Bool := v.getLsbD (W - 1 - p.val)

/-- 00_scope.md R14: `zext_32`. -/
def zext32 {n : Nat} (v : BitVec n) : Word := v.setWidth 32

/-- 00_scope.md R14: `hi4(b) = b[7:4]`; R15: the left half of a block. -/
def hi4 (b : BitVec 8) : Nibble := b.extractLsb' 4 4

/-- 00_scope.md R14: `lo4(b) = b[3:0]`; R15: the right half of a block. -/
def lo4 (b : BitVec 8) : Nibble := b.extractLsb' 0 4

/-- 00_scope.md R14: `hi5(k) = k[9:5]`. -/
def hi5 (k : BitVec 10) : KeyHalf := k.extractLsb' 5 5

/-- 00_scope.md R14: `lo5(k) = k[4:0]`. -/
def lo5 (k : BitVec 10) : KeyHalf := k.extractLsb' 0 5

/-- 30_encoding.md R71: `OP = CMD[31:28]`. -/
def opField (w : Word) : BitVec 4 := w.extractLsb' 28 4

/-- 30_encoding.md R79: `TSEL = CMD[27:25]`. -/
def tselField (w : Word) : BitVec 3 := w.extractLsb' 25 3

/-- 30_encoding.md R80: `AMT = CMD[27:25]`. -/
def amtField (w : Word) : BitVec 3 := w.extractLsb' 25 3

/-- 30_encoding.md R78: `BOX = CMD[4]`. -/
def boxField (w : Word) : BitVec 1 := w.extractLsb' 4 1

/-- 30_encoding.md R74: `SK1 = CMD[23:16]`. -/
def sk1Field (w : Word) : Subkey := w.extractLsb' 16 8

/-- 30_encoding.md R74: `SK2 = CMD[15:8]`; R75, R76: `SK = CMD[15:8]`. -/
def skField (w : Word) : Subkey := w.extractLsb' 8 8

/-- A field in bits 9:0: KEY of format K, DIN of P10, P8 and LS10 (30_encoding.md R73, R79, R80). -/
def low10 (w : Word) : BitVec 10 := w.extractLsb' 0 10

/-- A field in bits 7:0: BLK of formats C, R and B, DIN of IP and IPINV (30_encoding.md R74, R75, R77, R79). -/
def low8 (w : Word) : BitVec 8 := w.extractLsb' 0 8

/-- A field in bits 4:0: DIN of LS5 (30_encoding.md R80). -/
def low5 (w : Word) : BitVec 5 := w.extractLsb' 0 5

/-- A field in bits 3:0: NIB of formats RN and S, DIN of P4 and EP (30_encoding.md R76, R78, R79). -/
def low4 (w : Word) : BitVec 4 := w.extractLsb' 0 4

end Sys2Proof
end

