-- ==== Sys2Proof/Machine/Ops.lean ====
section
/-! DEFINITION. The named operations on the state: Issue (10_state.md R26), the two ends of Complete (R35), the one
exception IllegalCommand (60_exceptions.md R301), reset (70_reset_and_hazards.md R400) and the host's reads
(10_state.md R36). The core has no memory (20_memory.md R50) and no general registers (10_state.md R20). -/

namespace Sys2Proof.Machine

/-- 10_state.md R26, `Issue(w)`: on acceptance of the word w. It also is all that ends an illegal command's report: "The
next accepted Issue clears ILL and CAUSE" (60_exceptions.md R305). -/
def CoreState.issue (w : Word) (c : CoreState) : CoreState :=
  { c with CMDLATCH := w, BUSY := true, VALID := false, ILL := false, CAUSE := causeNone }

/-- 10_state.md R35, `Complete` with `out = Ok(value)`. -/
def CoreState.completeOk (value : Word) (c : CoreState) : CoreState :=
  { c with RESULT := value, ILL := false, CAUSE := causeNone, VALID := true, BUSY := false }

/-- 60_exceptions.md R301, `IllegalCommand(cause)`: its whole effect, applied by Complete (10_state.md R35). Nothing is
saved and no control moves (60_exceptions.md R304). -/
def CoreState.completeIllegal (cause : Cause) (c : CoreState) : CoreState :=
  { c with RESULT := 0, ILL := true, CAUSE := cause.code, VALID := true, BUSY := false }

/-- The end of a legal command: RESULT receives the unit's output, zero-extended (30_encoding.md R84). -/
def finish {n : Nat} (value : BitVec n) (s : State) : Result :=
  .next { s with core := s.core.completeOk (zext32 value) }

/-- 60_exceptions.md R301: `raise IllegalCommand(cause)`, a defined step (R306). -/
def raiseIllegal (cause : Cause) (s : State) : Result :=
  .next { s with core := s.core.completeIllegal cause }

/-- 10_state.md R26: the word w is accepted; the host no longer offers it. -/
def State.accept (w : Word) (s : State) : State :=
  { s with core := s.core.issue w, cmd := none }

/-- 10_state.md R26, 70_reset_and_hazards.md R412: the host offers w. It is accepted when CMD_READY = 1; else it has no
effect and the host holds it (log 6). -/
def State.offer (w : Word) (s : State) : State :=
  if s.cmdReady then s.accept w else { s with cmd := some w }

/-- 70_reset_and_hazards.md R412: a host drops its write. -/
def State.withdraw (s : State) : State := { s with cmd := none }

/-- 70_reset_and_hazards.md R400: while RST = 1 every piece of state has its reset value; the tables are not changed. -/
def State.holdReset (s : State) : State :=
  if s.rst then { s with core := CoreState.reset } else s

/-- 70_reset_and_hazards.md R400: RST is driven to a level. At the step it is asserted and at the step it is released
the state takes the reset values. What the host has read before stays in `reads` (DESIGN CHOICE, log 14). -/
def State.driveRst (level : Bool) (s : State) : State :=
  if level || s.rst then { s with core := CoreState.reset, rst := level } else s

/-- 10_state.md R36: a whole-word read of RESULT changes nothing but what the host has seen. -/
def State.hostReadResult (s : State) : State :=
  { s with reads := s.reads ++ [.result s.core.RESULT s.core.completed] }

/-- 10_state.md R36: a whole-word read of STATUS. -/
def State.hostReadStatus (s : State) : State :=
  { s with reads := s.reads ++ [.status s.core.status s.core.completed] }

/-- 10_state.md R36: a read of CMD_READY. -/
def State.hostReadReady (s : State) : State := { s with reads := s.reads ++ [.ready s.cmdReady] }

/-- The schedule after the event that this step takes; an empty schedule stays empty (log 3). -/
def State.pop (s : State) : State := { s with sched := s.sched.tail }

/-- The event this step takes: the head of the schedule, and the core's turn when nothing is scheduled (log 3). -/
def State.nextEvent (s : State) : Event := s.sched.headD .core

end Sys2Proof.Machine
end

