-- ==== Sys2Proof/Machine/Permutation.lean ====
section
/-! DEFINITION. The Bit-Permutation Engine and its six commands (40_permutation.md). Every table comes from the
instance's record (R101: "it must not hard-code them anywhere else"). -/

namespace Sys2Proof

/-- 40_permutation.md R100: output position i holds the input bit at position `T[i]`, both counted from the most
significant bit: the table's entries name the output bits from the most significant down. -/
def permute {wIn wOut : Nat} (t : Vector (Position wIn) wOut) (v : BitVec wIn) : BitVec wOut :=
  (BitVec.ofBoolListBE (t.toList.map (posBit v))).setWidth wOut

namespace Machine

/-- 40_permutation.md R102: `RESULT <- zext_32(permute_P10(DIN))`. -/
def execP10 (din : BitVec 10) (s : State) : Result := finish (permute s.tables.P10 din) s

/-- 40_permutation.md R103: `RESULT <- zext_32(permute_P8(DIN))`. -/
def execP8 (din : BitVec 10) (s : State) : Result := finish (permute s.tables.P8 din) s

/-- 40_permutation.md R104: `RESULT <- zext_32(permute_P4(DIN))`. -/
def execP4 (din : BitVec 4) (s : State) : Result := finish (permute s.tables.P4 din) s

/-- 40_permutation.md R105: `RESULT <- zext_32(permute_EP(DIN))`. -/
def execEp (din : BitVec 4) (s : State) : Result := finish (permute s.tables.EP din) s

/-- 40_permutation.md R106: `RESULT <- zext_32(permute_IP(DIN))`. -/
def execIp (din : Block) (s : State) : Result := finish (permute s.tables.IP din) s

/-- 40_permutation.md R107: `RESULT <- zext_32(permute_IPINV(DIN))`. -/
def execIpinv (din : Block) (s : State) : Result := finish (permute s.tables.IPINV din) s

end Machine
end Sys2Proof
end

