-- ==== Sys2Proof/Machine/Sbox.lean ====
section
/-! DEFINITION. The substitution boxes and their two commands (42_sbox.md). -/

namespace Sys2Proof

/-- 42_sbox.md R150: the outer bits, bit 3 high. -/
def sboxRow (nib : Nibble) : BitVec 2 := nib.extractLsb' 3 1 ++ nib.extractLsb' 0 1

/-- 42_sbox.md R150: the inner bits, bit 2 high. -/
def sboxCol (nib : Nibble) : BitVec 2 := nib.extractLsb' 2 1 ++ nib.extractLsb' 1 1

/-- 42_sbox.md R150: `S[row][col]`. -/
def sboxLookup (box : Grid) (nib : Nibble) : BitVec 2 := (box.get (sboxRow nib).toFin).get (sboxCol nib).toFin

namespace Machine

/-- 42_sbox.md R153: `RESULT <- zext_32(SBox(Tables.S0, NIB))`. -/
def execSbox0 (nib : Nibble) (s : State) : Result := finish (sboxLookup s.tables.S0 nib) s

/-- 42_sbox.md R154: `RESULT <- zext_32(SBox(Tables.S1, NIB))`. -/
def execSbox1 (nib : Nibble) (s : State) : Result := finish (sboxLookup s.tables.S1 nib) s

end Machine
end Sys2Proof
end

