-- ==== Sys2Proof/Machine/Round.lean ====
section
/-! DEFINITION. The Feistel round-function engine and its three commands (43_round_function.md). The left half is the
high half (00_scope.md R15). -/

namespace Sys2Proof

/-- 43_round_function.md R170: `F(T, nib, sk)`. -/
def roundF (T : Tables) (nib : Nibble) (sk : Subkey) : Nibble :=
  let x := permute T.EP nib ^^^ sk
  permute T.P4 (sboxLookup T.S0 (hi4 x) ++ sboxLookup T.S1 (lo4 x))

/-- 43_round_function.md R171: `FK(T, blk, sk)`. -/
def feistel (T : Tables) (blk : Block) (sk : Subkey) : Block :=
  (hi4 blk ^^^ roundF T (lo4 blk) sk) ++ lo4 blk

/-- 43_round_function.md R172: `SW(blk) = lo4(blk) ++ hi4(blk)`. -/
def switchHalves (blk : Block) : Block := lo4 blk ++ hi4 blk

namespace Machine

/-- 43_round_function.md R171: `RESULT <- zext_32(FK(Tables, BLK, SK))`. -/
def execFk (sk : Subkey) (blk : Block) (s : State) : Result := finish (feistel s.tables blk sk) s

/-- 43_round_function.md R172: `RESULT <- zext_32(SW(BLK))`. -/
def execSw (blk : Block) (s : State) : Result := finish (switchHalves blk) s

/-- 43_round_function.md R170: `RESULT <- zext_32(F(Tables, NIB, SK))`. -/
def execF (sk : Subkey) (nib : Nibble) (s : State) : Result := finish (roundF s.tables nib sk) s

end Machine
end Sys2Proof
end

