-- ==== Sys2Proof/Machine/Cipher.lean ====
section
/-! DEFINITION. The cipher-core composition and its two commands (44_cipher_core.md). There is exactly one switch, between
the two rounds (R192). -/

namespace Sys2Proof

/-- 44_cipher_core.md R190: `Encrypt(T, p, sk1, sk2)`. -/
def encrypt (T : Tables) (p : Block) (sk1 sk2 : Subkey) : Block :=
  let afterIp := permute T.IP p
  let round1 := feistel T afterIp sk1
  let switched := switchHalves round1
  let round2 := feistel T switched sk2
  permute T.IPINV round2

/-- 44_cipher_core.md R191: `Decrypt(T, c, sk1, sk2)`, SK2 first, then SK1. -/
def decrypt (T : Tables) (c : Block) (sk1 sk2 : Subkey) : Block :=
  let afterIp := permute T.IP c
  let round1 := feistel T afterIp sk2
  let switched := switchHalves round1
  let round2 := feistel T switched sk1
  permute T.IPINV round2

namespace Machine

/-- 44_cipher_core.md R190: `RESULT <- zext_32(Encrypt(Tables, BLK, SK1, SK2))`. -/
def execEnc (sk1 sk2 : Subkey) (blk : Block) (s : State) : Result := finish (encrypt s.tables blk sk1 sk2) s

/-- 44_cipher_core.md R191: `RESULT <- zext_32(Decrypt(Tables, BLK, SK1, SK2))`. -/
def execDec (sk1 sk2 : Subkey) (blk : Block) (s : State) : Result := finish (decrypt s.tables blk sk1 sk2) s

end Machine
end Sys2Proof
end

