-- ==== Sys2Proof/WellFormed.lean ====
section
/-! DEFINITION. Which instruction terms are legal commands. The only operand whose field is wider than its legal values
is AMT of LS5 and LS10 (30_encoding.md R80: legal only in [1, 4]); every other field has exactly its operand's width
(R81). -/

namespace Sys2Proof

/-- 30_encoding.md R80: AMT is legal only in [1, 4]. -/
def amountLegal (amt : BitVec 3) : Bool := decide (1 ≤ amt.toNat ∧ amt.toNat ≤ 4)

/-- 30_encoding.md R83: a well-formed instruction is a legal command. -/
def Instr.wellFormed : Instr → Bool
  | .genkey _ => true
  | .enc _ _ _ => true
  | .dec _ _ _ => true
  | .fk _ _ => true
  | .sw _ => true
  | .f _ _ => true
  | .sbox0 _ => true
  | .sbox1 _ => true
  | .p10 _ => true
  | .p8 _ => true
  | .p4 _ => true
  | .ep _ => true
  | .ip _ => true
  | .ipinv _ => true
  | .ls5 amt _ => amountLegal amt
  | .ls10 amt _ => amountLegal amt

end Sys2Proof
end

