-- ==== Sys2Proof/Decode.lean ====
section
/-! DEFINITION. The command decoder (30_encoding.md R70 to R83), total on all 2^32 words and rejecting by cause, then
the encoder written from the same format tables, and the rows of spec/opcode_table.json. -/

namespace Sys2Proof

/-- 41_key_schedule.md R130, 30_encoding.md R80: the rotation amount an AMT field names, none outside [1, 4]. -/
def Amount.ofBits? (amt : BitVec 3) : Option Amount :=
  match amt.toNat with
  | 1 => some .one
  | 2 => some .two
  | 3 => some .three
  | 4 => some .four
  | _ => none

/-- The number n of an amount. -/
def Amount.toNat : Amount → Nat
  | .one => 1
  | .two => 2
  | .three => 3
  | .four => 4

/-- Whether the bits hi down to lo of the word are all 0: a range that a format marks "must be 0" (30_encoding.md R82). -/
def zeroBits (w : Word) (hi lo : Nat) : Bool := w.extractLsb' lo (hi - lo + 1) == 0

/-- 30_encoding.md R82: the word is illegal with cause `RSVD_BITS` when a must-be-zero bit of its format is set. -/
def requireZero (zero : Bool) (i : Instr) : Except Cause Instr := if zero then .ok i else .error .rsvdBits

/-- OP = 0x7, format S (30_encoding.md R78): BOX selects the box. -/
def decodeSbox (w : Word) : Except Cause Instr :=
  requireZero (zeroBits w 27 5) (if boxField w = 0 then .sbox0 (low4 w) else .sbox1 (low4 w))

/-- OP = 0x8, format P (30_encoding.md R79): TSEL selects the table; TSEL 6 and 7 are reserved. -/
def decodePermutation (w : Word) : Except Cause Instr :=
  match (tselField w).toNat with
  | 0 => requireZero (zeroBits w 24 10) (.p10 (low10 w))
  | 1 => requireZero (zeroBits w 24 10) (.p8 (low10 w))
  | 2 => requireZero (zeroBits w 24 4) (.p4 (low4 w))
  | 3 => requireZero (zeroBits w 24 4) (.ep (low4 w))
  | 4 => requireZero (zeroBits w 24 8) (.ip (low8 w))
  | 5 => requireZero (zeroBits w 24 8) (.ipinv (low8 w))
  | _ => .error .rsvdTsel

/-- 30_encoding.md R72: OP alone selects the format. The order of the checks within one OP is the priority of
60_exceptions.md R303: opcode, then sub-selector, then operand range, then padding. -/
def decode (w : Word) : Except Cause Instr :=
  match (opField w).toNat with
  | 0x1 => requireZero (zeroBits w 27 10) (.genkey (low10 w))
  | 0x2 => requireZero (zeroBits w 27 24) (.enc (sk1Field w) (skField w) (low8 w))
  | 0x3 => requireZero (zeroBits w 27 24) (.dec (sk1Field w) (skField w) (low8 w))
  | 0x4 => requireZero (zeroBits w 27 16) (.fk (skField w) (low8 w))
  | 0x5 => requireZero (zeroBits w 27 8) (.sw (low8 w))
  | 0x6 => requireZero (zeroBits w 27 16 && zeroBits w 7 4) (.f (skField w) (low4 w))
  | 0x7 => decodeSbox w
  | 0x8 => decodePermutation w
  | 0x9 => if amountLegal (amtField w) then requireZero (zeroBits w 24 5) (.ls5 (amtField w) (low5 w)) else .error .badAmt
  | 0xA => if amountLegal (amtField w) then requireZero (zeroBits w 24 10) (.ls10 (amtField w) (low10 w)) else .error .badAmt
  | _ => .error .rsvdOp

/-- The instruction `decode` reads from a table word, none where it refuses. A command is one 32-bit word and the table
numbers its bits as the spec does (30_encoding.md R70, 20_memory.md R54), so there are no words to lay out. -/
def decodeTableWord (nbits w : Nat) : Option Instr :=
  if nbits ≤ 32 then
    match decode (BitVec.ofNat 32 (w % 2 ^ nbits)) with
    | .ok i => some i
    | .error _ => none
  else none

/-- 30_encoding.md R73 to R80, R87: the word of an instruction; must-be-zero bits are assembled as 0. -/
def encode : Instr → Word
  | .genkey key => 0x1#4 ++ 0#18 ++ key
  | .enc sk1 sk2 blk => 0x2#4 ++ 0#4 ++ sk1 ++ sk2 ++ blk
  | .dec sk1 sk2 blk => 0x3#4 ++ 0#4 ++ sk1 ++ sk2 ++ blk
  | .fk sk blk => 0x4#4 ++ 0#12 ++ sk ++ blk
  | .sw blk => 0x5#4 ++ 0#20 ++ blk
  | .f sk nib => 0x6#4 ++ 0#12 ++ sk ++ 0#4 ++ nib
  | .sbox0 nib => 0x7#4 ++ 0#23 ++ 0#1 ++ nib
  | .sbox1 nib => 0x7#4 ++ 0#23 ++ 1#1 ++ nib
  | .p10 din => 0x8#4 ++ 0#3 ++ 0#15 ++ din
  | .p8 din => 0x8#4 ++ 1#3 ++ 0#15 ++ din
  | .p4 din => 0x8#4 ++ 2#3 ++ 0#21 ++ din
  | .ep din => 0x8#4 ++ 3#3 ++ 0#21 ++ din
  | .ip din => 0x8#4 ++ 4#3 ++ 0#17 ++ din
  | .ipinv din => 0x8#4 ++ 5#3 ++ 0#17 ++ din
  | .ls5 amt din => 0x9#4 ++ amt ++ 0#20 ++ din
  | .ls10 amt din => 0xA#4 ++ amt ++ 0#15 ++ din

/-- A row's mask and match values in spec/opcode_table.json (30_encoding.md R85, R86). -/
structure OpcodeRow where
  mask : Word
  pattern : Word
  deriving DecidableEq, Repr

/-- The row of spec/opcode_table.json an instruction belongs to. -/
def Instr.row : Instr → OpcodeRow
  | .genkey _ => ⟨0xFFFFFC00, 0x10000000⟩
  | .enc _ _ _ => ⟨0xFF000000, 0x20000000⟩
  | .dec _ _ _ => ⟨0xFF000000, 0x30000000⟩
  | .fk _ _ => ⟨0xFFFF0000, 0x40000000⟩
  | .sw _ => ⟨0xFFFFFF00, 0x50000000⟩
  | .f _ _ => ⟨0xFFFF00F0, 0x60000000⟩
  | .sbox0 _ => ⟨0xFFFFFFF0, 0x70000000⟩
  | .sbox1 _ => ⟨0xFFFFFFF0, 0x70000010⟩
  | .p10 _ => ⟨0xFFFFFC00, 0x80000000⟩
  | .p8 _ => ⟨0xFFFFFC00, 0x82000000⟩
  | .p4 _ => ⟨0xFFFFFFF0, 0x84000000⟩
  | .ep _ => ⟨0xFFFFFFF0, 0x86000000⟩
  | .ip _ => ⟨0xFFFFFF00, 0x88000000⟩
  | .ipinv _ => ⟨0xFFFFFF00, 0x8A000000⟩
  | .ls5 _ _ => ⟨0xF1FFFFE0, 0x90000000⟩
  | .ls10 _ _ => ⟨0xF1FFFC00, 0xA0000000⟩

/-- The rows that need AMT in [1, 4] besides their mask and match (30_encoding.md R86). -/
def amountRows : List OpcodeRow := [⟨0xF1FFFFE0, 0x90000000⟩, ⟨0xF1FFFC00, 0xA0000000⟩]

/-- All sixteen rows of spec/opcode_table.json, in the table's order. -/
def opcodeRows : List OpcodeRow :=
  [⟨0xFFFFFC00, 0x10000000⟩, ⟨0xFF000000, 0x20000000⟩, ⟨0xFF000000, 0x30000000⟩, ⟨0xFFFF0000, 0x40000000⟩,
    ⟨0xFFFFFF00, 0x50000000⟩, ⟨0xFFFF00F0, 0x60000000⟩, ⟨0xFFFFFFF0, 0x70000000⟩, ⟨0xFFFFFFF0, 0x70000010⟩,
    ⟨0xFFFFFC00, 0x80000000⟩, ⟨0xFFFFFC00, 0x82000000⟩, ⟨0xFFFFFFF0, 0x84000000⟩, ⟨0xFFFFFFF0, 0x86000000⟩,
    ⟨0xFFFFFF00, 0x88000000⟩, ⟨0xFFFFFF00, 0x8A000000⟩] ++ amountRows

/-- 30_encoding.md R85: `chk(mask, match)`, and R86: a word is legal for a row exactly when it matches and, for LS5 and
LS10, AMT is in [1, 4]. -/
def OpcodeRow.legal (r : OpcodeRow) (w : Word) : Prop :=
  w &&& r.mask = r.pattern ∧ (r ∈ amountRows → amountLegal (amtField w) = true)

end Sys2Proof
end

