-- ==== Sys2Proof/Machine/KeySchedule.lean ====
section
/-! DEFINITION. The key-schedule generator and its three commands (41_key_schedule.md). -/

namespace Sys2Proof

/-- 41_key_schedule.md R130: `((h << n) OR (h >> (5 - n)))[4:0]`, for the amounts 1 to 4 only. -/
def rol5 (h : KeyHalf) (n : Amount) : KeyHalf := (h <<< n.toNat) ||| (h >>> (5 - n.toNat))

/-- 41_key_schedule.md R132: the two halves are rotated independently. -/
def splitShift (x : BitVec 10) (n : Amount) : BitVec 10 := rol5 (hi5 x) n ++ rol5 (lo5 x) n

/-- 41_key_schedule.md R134: `GenKey(T, key)`, the pair (SK1, SK2). -/
def genKey (T : Tables) (key : MasterKey) : Subkey × Subkey :=
  let a := permute T.P10 key
  let ls1 := splitShift a .one
  let ls2 := splitShift ls1 .two
  (permute T.P8 ls1, permute T.P8 ls2)

namespace Machine

/-- 41_key_schedule.md R136: `RESULT <- zext_32(sk1 ++ sk2)`. -/
def execGenkey (key : MasterKey) (s : State) : Result :=
  let subkeys := genKey s.tables key
  finish (subkeys.1 ++ subkeys.2) s

/-- 41_key_schedule.md R131: `RESULT <- zext_32(Rol5(DIN, AMT))`; `IllegalCommand(BAD_AMT)` if AMT is not in [1, 4]. -/
def execLs5 (amt : BitVec 3) (din : KeyHalf) (s : State) : Result :=
  match Amount.ofBits? amt with
  | some n => finish (rol5 din n) s
  | none => raiseIllegal .badAmt s

/-- 41_key_schedule.md R132: `RESULT <- zext_32(Ls10(DIN, AMT))`; `IllegalCommand(BAD_AMT)` if AMT is not in [1, 4]. -/
def execLs10 (amt : BitVec 3) (din : BitVec 10) (s : State) : Result :=
  match Amount.ofBits? amt with
  | some n => finish (splitShift din n) s
  | none => raiseIllegal .badAmt s

end Machine
end Sys2Proof
end

