-- ==== Sys2Proof/Machine/Dispatch.lean ====
section
/-! DEFINITION. The dispatch of a decoded command to its meaning (30_encoding.md R85). -/

namespace Sys2Proof.Machine

def exec (i : Instr) (s : State) : Host.Outcome State Fault Refusal :=
  match i with
  | .genkey key => Sys2Proof.Machine.execGenkey key s
  | .enc sk1 sk2 blk => Sys2Proof.Machine.execEnc sk1 sk2 blk s
  | .dec sk1 sk2 blk => Sys2Proof.Machine.execDec sk1 sk2 blk s
  | .fk sk blk => Sys2Proof.Machine.execFk sk blk s
  | .sw blk => Sys2Proof.Machine.execSw blk s
  | .f sk nib => Sys2Proof.Machine.execF sk nib s
  | .sbox0 nib => Sys2Proof.Machine.execSbox0 nib s
  | .sbox1 nib => Sys2Proof.Machine.execSbox1 nib s
  | .p10 din => Sys2Proof.Machine.execP10 din s
  | .p8 din => Sys2Proof.Machine.execP8 din s
  | .p4 din => Sys2Proof.Machine.execP4 din s
  | .ep din => Sys2Proof.Machine.execEp din s
  | .ip din => Sys2Proof.Machine.execIp din s
  | .ipinv din => Sys2Proof.Machine.execIpinv din s
  | .ls5 amt din => Sys2Proof.Machine.execLs5 amt din s
  | .ls10 amt din => Sys2Proof.Machine.execLs10 amt din s

end Sys2Proof.Machine
end

