-- ==== Sys2Proof/Machine/Events.lean ====
section
/-! DEFINITION. What one event of the schedule does: the core agent's turn, with Complete (10_state.md R35) and the
taking of a held offer (R26), and the acts of the host (10_state.md R24 to R36, 70_reset_and_hazards.md R400, R412). -/

namespace Sys2Proof.Machine

/-- 10_state.md R35, `Complete`: the word in CMDLATCH is decoded and run, or reported as illegal. -/
def complete (s : State) : Result :=
  match decode s.core.CMDLATCH with
  | .ok i => exec i s
  | .error cause => raiseIllegal cause s

/-- 10_state.md R26: a word the host still offers is accepted as soon as CMD_READY = 1; with no such word nothing
happens (60_exceptions.md R334: idle, all state is kept). -/
def acceptHeld (s : State) : Result :=
  match s.cmd with
  | some w => .next (s.offer w)
  | none => .next s

/-- The core agent's turn (10_state.md R24): Complete is enabled exactly when BUSY = 1 (R35). -/
def coreTurn (s : State) : Result := if s.core.BUSY then complete s else acceptHeld s

/-- One event. The partial-width accesses are refused (20_memory.md R55, 60_exceptions.md R306). -/
def runEvent (e : Event) (s : State) : Result :=
  match e with
  | .core => coreTurn s
  | .write w => .next (s.offer w)
  | .withdraw => .next s.withdraw
  | .readResult => .next s.hostReadResult
  | .readStatus => .next s.hostReadStatus
  | .readReady => .next s.hostReadReady
  | .rst level => .next (s.driveRst level)
  | .partialRead _ _ => .refused .partialWidthAccess
  | .partialWrite _ => .refused .partialWidthAccess

/-- One step of the instance and its host: the next event of the schedule happens to the state, which has its reset
values while RST = 1 (70_reset_and_hazards.md R400). An ill-formed record is refused (60_exceptions.md R306; log 9). -/
def runScheduled (s : State) : Result :=
  if s.tables.WellFormed then runEvent s.nextEvent s.pop.holdReset else .refused .illFormedTables

/-- The state in which the word w has just been accepted and the core moves next: Issue (10_state.md R26) with RST
released and a turn of the core put before the rest of the schedule (log 4). -/
def State.loadCommand (s : State) (w : Word) : State :=
  { s with core := s.core.issue w, rst := false, sched := .core :: s.sched }

end Sys2Proof.Machine
end

