-- ==== Sys2Proof/Machine/Step.lean ====
section
/-! DEFINITION. The step function, and how a word is put where the step takes its next command from: CMDLATCH
(10_state.md R34, R35). The core fetches nothing (R21, 20_memory.md R62). -/

namespace Sys2Proof.Machine

/-- One step: one event of 20_memory.md R58's total order. -/
def step (s : State) : Host.Outcome State Fault Refusal := runScheduled s

/-- The word w of nbits bits as the command in flight, run by the very next step (log 4). -/
def State.withFetchWord (s : State) (nbits w : Nat) : State := s.loadCommand (BitVec.ofNat 32 (w % 2 ^ nbits))

end Sys2Proof.Machine
end

