-- ==== Sys2Proof/Machine/Assembler.lean ====
section
/-! DEFINITION. The assembler syntax and pseudo-instructions of 30_encoding.md R87 and R88: the text of one command per
line, its abstract form, and the word it assembles to. It acts on no state (92_eei_decisions.md D20: "Syntax only; no
semantic effect"). -/

namespace Sys2Proof

/-- One line of command text: the sixteen forms of 30_encoding.md R87, then the four pseudo-instructions of R88. -/
inductive AsmLine where
  | genkey (key : Nat)
  | enc (sk1 sk2 blk : Nat)
  | dec (sk1 sk2 blk : Nat)
  | fk (sk blk : Nat)
  | sw (blk : Nat)
  | f (sk nib : Nat)
  | sbox0 (nib : Nat)
  | sbox1 (nib : Nat)
  | p10 (x : Nat)
  | p8 (x : Nat)
  | p4 (x : Nat)
  | ep (x : Nat)
  | ip (x : Nat)
  | ipinv (x : Nat)
  | ls5 (amt x : Nat)
  | ls10 (amt x : Nat)
  | ls1 (x : Nat)
  | ls2 (x : Nat)
  | sbox (box nib : Nat)
  | perm (t x : Nat)
  deriving DecidableEq, Repr

/-- 30_encoding.md R87: "A value that does not fit its field width is an assembly error, not truncated." -/
def fits (n v : Nat) : Option (BitVec n) := if v < 2 ^ n then some (BitVec.ofNat n v) else none

/-- 30_encoding.md R87 and R88: the instruction a line stands for, none on an assembly error. -/
def assemble : AsmLine → Option Instr
  | .genkey key => (fits 10 key).map .genkey
  | .enc sk1 sk2 blk => (fits 8 sk1).bind fun a => (fits 8 sk2).bind fun b => (fits 8 blk).map (.enc a b)
  | .dec sk1 sk2 blk => (fits 8 sk1).bind fun a => (fits 8 sk2).bind fun b => (fits 8 blk).map (.dec a b)
  | .fk sk blk => (fits 8 sk).bind fun a => (fits 8 blk).map (.fk a)
  | .sw blk => (fits 8 blk).map .sw
  | .f sk nib => (fits 8 sk).bind fun a => (fits 4 nib).map (.f a)
  | .sbox0 nib => (fits 4 nib).map .sbox0
  | .sbox1 nib => (fits 4 nib).map .sbox1
  | .p10 x => (fits 10 x).map .p10
  | .p8 x => (fits 10 x).map .p8
  | .p4 x => (fits 4 x).map .p4
  | .ep x => (fits 4 x).map .ep
  | .ip x => (fits 8 x).map .ip
  | .ipinv x => (fits 8 x).map .ipinv
  | .ls5 amt x => (fits 3 amt).bind fun a => (fits 5 x).map (.ls5 a)
  | .ls10 amt x => (fits 3 amt).bind fun a => (fits 10 x).map (.ls10 a)
  | .ls1 x => (fits 10 x).map (.ls10 1)
  | .ls2 x => (fits 10 x).map (.ls10 2)
  | .sbox 0 nib => (fits 4 nib).map .sbox0
  | .sbox 1 nib => (fits 4 nib).map .sbox1
  | .sbox _ _ => none
  | .perm 0 x => (fits 10 x).map .p10
  | .perm 1 x => (fits 10 x).map .p8
  | .perm 2 x => (fits 4 x).map .p4
  | .perm 3 x => (fits 4 x).map .ep
  | .perm 4 x => (fits 8 x).map .ip
  | .perm 5 x => (fits 8 x).map .ipinv
  | .perm _ _ => none

/-- The command word a line assembles to. -/
def assembleWord (line : AsmLine) : Option Word := (assemble line).map encode

/-! ## The text of a line -/

/-- The value of a digit of a numeral up to base 16. -/
def digitValue (c : Char) : Option Nat :=
  if '0' ≤ c ∧ c ≤ '9' then some (c.toNat - '0'.toNat)
  else if 'a' ≤ c ∧ c ≤ 'f' then some (c.toNat - 'a'.toNat + 10)
  else if 'A' ≤ c ∧ c ≤ 'F' then some (c.toNat - 'A'.toNat + 10)
  else none

/-- The number a non-empty list of digits denotes in a base, given the number read so far. -/
def digitsValue (base acc : Nat) : List Char → Option Nat
  | [] => some acc
  | c :: rest => (digitValue c).bind fun d => if d < base then digitsValue base (base * acc + d) rest else none

/-- 30_encoding.md R87: "Operands may be written in binary (0b1010000010), hexadecimal (0x282) or decimal." -/
def numeral : List Char → Option Nat
  | '0' :: 'b' :: d :: ds => digitsValue 2 0 (d :: ds)
  | '0' :: 'x' :: d :: ds => digitsValue 16 0 (d :: ds)
  | d :: ds => digitsValue 10 0 (d :: ds)
  | [] => none

/-- A text without its leading spaces. -/
def skipSpaces (text : List Char) : List Char := text.dropWhile (· == ' ')

/-- A text without its leading and trailing spaces (log 13). -/
def trimSpaces (text : List Char) : List Char := (skipSpaces (skipSpaces text).reverse).reverse

/-- The parts of a text between commas. -/
def splitCommas : List Char → List (List Char)
  | [] => [[]]
  | ',' :: rest => [] :: splitCommas rest
  | c :: rest =>
    match splitCommas rest with
    | [] => [[c]]
    | part :: parts => (c :: part) :: parts

/-- 30_encoding.md R87 and R88: the form a mnemonic and its operands make. -/
def asmForm (mnemonic : List Char) (operands : List Nat) : Option AsmLine :=
  match String.ofList mnemonic, operands with
  | "GENKEY", [key] => some (.genkey key)
  | "ENC", [sk1, sk2, blk] => some (.enc sk1 sk2 blk)
  | "DEC", [sk1, sk2, blk] => some (.dec sk1 sk2 blk)
  | "FK", [sk, blk] => some (.fk sk blk)
  | "SW", [blk] => some (.sw blk)
  | "F", [sk, nib] => some (.f sk nib)
  | "SBOX0", [nib] => some (.sbox0 nib)
  | "SBOX1", [nib] => some (.sbox1 nib)
  | "P10", [x] => some (.p10 x)
  | "P8", [x] => some (.p8 x)
  | "P4", [x] => some (.p4 x)
  | "EP", [x] => some (.ep x)
  | "IP", [x] => some (.ip x)
  | "IPINV", [x] => some (.ipinv x)
  | "LS5", [amt, x] => some (.ls5 amt x)
  | "LS10", [amt, x] => some (.ls10 amt x)
  | "LS1", [x] => some (.ls1 x)
  | "LS2", [x] => some (.ls2 x)
  | "SBOX", [box, nib] => some (.sbox box nib)
  | "PERM", [t, x] => some (.perm t x)
  | _, _ => none

/-- 30_encoding.md R87: "the mnemonic, then its operands separated by commas". -/
def parseLine (text : List Char) : Option AsmLine :=
  let mnemonic := (skipSpaces text).takeWhile (· != ' ')
  let operands := (skipSpaces text).dropWhile (· != ' ')
  ((splitCommas operands).mapM fun part => numeral (trimSpaces part)).bind (asmForm mnemonic)

/-- The command word a line of text assembles to, none on an assembly error. -/
def assembleText (text : String) : Option Word := (parseLine text.toList).bind assembleWord

end Sys2Proof
end

