-- ==== Sys2Proof/Machine/Reference.lean ====
section
/-! DEFINITION. `Exec(T, w)` of 30_encoding.md R85, transcribed check by check from the spec's pseudocode. The machine does
not call it: it decodes to `Instr` and dispatches. Claims compare the two. -/

namespace Sys2Proof.Machine

/-- 30_encoding.md R85: `Ok(value)` or `Illegal(cause)`. -/
inductive ExecOutcome where
  | ok (value : Word)
  | illegal (cause : Cause)
  deriving DecidableEq, Repr

/-- `if … then Illegal(RSVD_BITS) else Ok(zext_32(…))`, the shape of every legal row of 30_encoding.md R85. -/
def okUnless {n : Nat} (reservedBitSet : Bool) (value : BitVec n) : ExecOutcome :=
  if reservedBitSet then .illegal .rsvdBits else .ok (zext32 value)

/-- 30_encoding.md R85, the cases of OP = 0x8 after the TSEL check. -/
def referencePermutation (T : Tables) (w : Word) (tsel : Nat) : ExecOutcome :=
  if tsel = 0 then okUnless (w.extractLsb' 10 15 != 0) (permute T.P10 (w.extractLsb' 0 10))
  else if tsel = 1 then okUnless (w.extractLsb' 10 15 != 0) (permute T.P8 (w.extractLsb' 0 10))
  else if tsel = 2 then okUnless (w.extractLsb' 4 21 != 0) (permute T.P4 (w.extractLsb' 0 4))
  else if tsel = 3 then okUnless (w.extractLsb' 4 21 != 0) (permute T.EP (w.extractLsb' 0 4))
  else if tsel = 4 then okUnless (w.extractLsb' 8 17 != 0) (permute T.IP (w.extractLsb' 0 8))
  else okUnless (w.extractLsb' 8 17 != 0) (permute T.IPINV (w.extractLsb' 0 8))

/-- 30_encoding.md R85, OP = 0x9 and 0xA after the AMT check, for the amount the AMT field names. -/
def referenceShift (w : Word) (op : Nat) (n : Amount) : ExecOutcome :=
  if op = 0x9 then okUnless (w.extractLsb' 5 20 != 0) (rol5 (w.extractLsb' 0 5) n)
  else okUnless (w.extractLsb' 10 15 != 0) (splitShift (w.extractLsb' 0 10) n)

/-- 30_encoding.md R85. Causes are checked in the order of 60_exceptions.md R303 before the dispatch. -/
def referenceExec (T : Tables) (w : Word) : ExecOutcome :=
  let op := (w.extractLsb' 28 4).toNat
  let selector := (w.extractLsb' 25 3).toNat
  if op = 0x0 ∨ 0xB ≤ op then .illegal .rsvdOp
  else if op = 0x8 ∧ 6 ≤ selector then .illegal .rsvdTsel
  else if (op = 0x9 ∨ op = 0xA) ∧ ¬(1 ≤ selector ∧ selector ≤ 4) then .illegal .badAmt
  else if op = 0x1 then
    okUnless (w.extractLsb' 10 18 != 0)
      ((genKey T (w.extractLsb' 0 10)).1 ++ (genKey T (w.extractLsb' 0 10)).2)
  else if op = 0x2 then
    okUnless (w.extractLsb' 24 4 != 0) (encrypt T (w.extractLsb' 0 8) (w.extractLsb' 16 8) (w.extractLsb' 8 8))
  else if op = 0x3 then
    okUnless (w.extractLsb' 24 4 != 0) (decrypt T (w.extractLsb' 0 8) (w.extractLsb' 16 8) (w.extractLsb' 8 8))
  else if op = 0x4 then okUnless (w.extractLsb' 16 12 != 0) (feistel T (w.extractLsb' 0 8) (w.extractLsb' 8 8))
  else if op = 0x5 then okUnless (w.extractLsb' 8 20 != 0) (switchHalves (w.extractLsb' 0 8))
  else if op = 0x6 then
    okUnless (w.extractLsb' 16 12 != 0 || w.extractLsb' 4 4 != 0) (roundF T (w.extractLsb' 0 4) (w.extractLsb' 8 8))
  else if op = 0x7 then
    okUnless (w.extractLsb' 5 23 != 0)
      (if w.getLsbD 4 then sboxLookup T.S1 (w.extractLsb' 0 4) else sboxLookup T.S0 (w.extractLsb' 0 4))
  else if op = 0x8 then referencePermutation T w selector
  else if selector = 1 then referenceShift w op .one
  else if selector = 2 then referenceShift w op .two
  else if selector = 3 then referenceShift w op .three
  else referenceShift w op .four

/-- 10_state.md R35: what Complete writes for an outcome of Exec. -/
def CoreState.completeWith (out : ExecOutcome) (c : CoreState) : CoreState :=
  match out with
  | .ok value => c.completeOk value
  | .illegal cause => c.completeIllegal cause

end Sys2Proof.Machine
end

