-- ==== Sys2Proof/Machine/Run.lean ====
section
/-! DEFINITION. The end of a host program's run and what the host observed of it (70_reset_and_hazards.md R417). -/

namespace Sys2Proof.Machine

/-- 70_reset_and_hazards.md R417: a value of RESULT or STATUS that the host read after a completion. A poll while a command
is in flight, a read before any completion and a read of CMD_READY are none. -/
def HostRead.observed : HostRead → Bool
  | .result _ completed => completed
  | .status _ completed => completed
  | .ready _ => false

/-- 70_reset_and_hazards.md R417: "The observation of the run is the sequence of RESULT and STATUS values the host read after
each completion", oldest first (logs 7 and 14). -/
def State.observation (s : State) : List HostRead := s.reads.filter HostRead.observed

/-- Whether the host issues no command in the schedule and after it, from an idle core with RST at a level and a word
offered or not. A word offered is issued at a turn of the core while RST = 0 and a word written while RST = 0 at once
(10_state.md R26); a partial-width access ends what the model runs (log 8); after the schedule the core moves (log 3). -/
def issuesNoMore (rst offered : Bool) : List Event → Bool
  | [] => rst || !offered
  | .core :: rest => (rst || !offered) && issuesNoMore rst offered rest
  | .write _ :: rest => rst && issuesNoMore rst true rest
  | .withdraw :: rest => issuesNoMore rst false rest
  | .rst level :: rest => issuesNoMore level offered rest
  | .readResult :: rest => issuesNoMore rst offered rest
  | .readStatus :: rest => issuesNoMore rst offered rest
  | .readReady :: rest => issuesNoMore rst offered rest
  | .partialRead _ _ :: _ => true
  | .partialWrite _ :: _ => true

/-- 70_reset_and_hazards.md R417: the host has issued its last command and BUSY = 0, whatever it still reads. DESIGN CHOICE
(log 14): R417 says nothing about a run that reset interrupts, and this also holds, with VALID = 0, when no command was
issued or when reset abandoned the last. -/
abbrev State.ended (s : State) : Prop := s.core.BUSY = false ∧ issuesNoMore s.rst s.cmd.isSome s.sched = true

end Sys2Proof.Machine
end

