-- ==== Sys2Proof/Safety.lean ====
section
/-! DEFINITION. The vocabulary of the claims: what a completed command leaves, the invariant of the machine, and the host
programs that issue a list of words (60_exceptions.md R306, 70_reset_and_hazards.md R413, R417). -/

namespace Sys2Proof.Machine

/-- The instruction i, run in s, answers the next state that holds value in RESULT, reports a legal completion and is s
in everything else (10_state.md R35): the instruction's result and its whole frame at once. -/
def CompletesWith (i : Instr) (s : State) (value : Word) : Prop :=
  exec i s = .next { s with core := { s.core with RESULT := value, ILL := false, CAUSE := 0, VALID := true, BUSY := false } }

/-- The next state that 60_exceptions.md R301 gives an illegal command: s in everything R301 does not name. -/
def State.afterIllegal (code : BitVec 4) (s : State) : State :=
  { s with core := { s.core with RESULT := 0, ILL := true, CAUSE := code, VALID := true, BUSY := false } }

/-- The instance's tables are well-formed and RST is released: the machine runs (00_scope.md R9,
70_reset_and_hazards.md R400). -/
abbrev State.running (s : State) : Prop := s.tables.WellFormed ∧ s.rst = false

/-- A running instance with a command in flight whose next event is the core's turn: Complete is enabled and taken
(10_state.md R35). -/
abbrev State.completing (s : State) : Prop := s.running ∧ s.core.BUSY = true ∧ s.nextEvent = .core

/-- The invariant of one instance's registers, for its tables T.
`busyCleared`: 10_state.md R26. `neverIssued`: R27, R39. `report`: R30, "When VALID = 1, RESULT, ILL and CAUSE describe the
most recently issued command". `width`: 30_encoding.md R84. -/
structure CoreState.Inv (T : Tables) (c : CoreState) : Prop where
  busyCleared : c.BUSY = true → c.VALID = false ∧ c.ILL = false ∧ c.CAUSE = 0
  neverIssued : c.BUSY = false → c.VALID = false → c = CoreState.reset
  report : c.VALID = true → c = c.completeWith (referenceExec T c.CMDLATCH)
  width : c.RESULT.toNat < 2 ^ 16

/-- The invariant of the machine: well-formed tables (70_reset_and_hazards.md R403), registers as above, and reset values
while RST = 1 (R400). -/
structure State.Inv (s : State) : Prop where
  tables : s.tables.WellFormed
  core : s.core.Inv s.tables
  inReset : s.rst = true → s.core = CoreState.reset

/-- 60_exceptions.md R306: the command completed "without error". -/
abbrev State.withoutError (s : State) : Prop := s.core.BUSY = false ∧ s.core.VALID = true ∧ s.core.ILL = false

/-- The host program of 70_reset_and_hazards.md R413 for a list of words: issue one, let the core complete it, read STATUS
and RESULT, then build the next. -/
def hostProgram : List Word → List Event
  | [] => []
  | w :: ws => .write w :: .core :: .readStatus :: .readResult :: hostProgram ws

/-- What the host reads after the completion of the word w (10_state.md R35, 70_reset_and_hazards.md R417). -/
def readsAfter (T : Tables) (w : Word) : List HostRead :=
  [.status (CoreState.reset.completeWith (referenceExec T w)).status true,
    .result (CoreState.reset.completeWith (referenceExec T w)).RESULT true]

/-- A read of the host. -/
def Event.isRead : Event → Bool
  | .readResult => true
  | .readStatus => true
  | .readReady => true
  | .core => false
  | .write _ => false
  | .withdraw => false
  | .rst _ => false
  | .partialRead _ _ => false
  | .partialWrite _ => false

/-- The host program of 70_reset_and_hazards.md R413 with polling: after each issue the host makes the given reads while the
command is in flight, and more reads of CMD_READY than it needs. -/
def pollingProgram : List (Word × List Event) → List Event
  | [] => []
  | (w, polls) :: rest => .write w :: polls ++ .core :: .readReady :: .readStatus :: .readResult :: pollingProgram rest

/-- 40_permutation.md R100 position by position: output position i + 1 of y is the input position `t[i] + 1` of x, where
position p of a W-bit value is bit W - p (00_scope.md R13). -/
def PermutedBy {wIn wOut : Nat} (t : Vector (Position wIn) wOut) (x : BitVec wIn) (y : BitVec wOut) : Prop :=
  ∀ i : Fin wOut, y.getLsbD (wOut - (i.val + 1)) = x.getLsbD (wIn - (t[i].val + 1))

/-- 30_encoding.md R84: how many low bits of RESULT the command's row of the table names. -/
def resultWidth : Instr → Nat
  | .genkey _ => 16
  | .enc _ _ _ => 8
  | .dec _ _ _ => 8
  | .fk _ _ => 8
  | .sw _ => 8
  | .f _ _ => 4
  | .sbox0 _ => 2
  | .sbox1 _ => 2
  | .p10 _ => 10
  | .p8 _ => 8
  | .p4 _ => 4
  | .ep _ => 8
  | .ip _ => 8
  | .ipinv _ => 8
  | .ls5 _ _ => 5
  | .ls10 _ _ => 10

/-- 30_encoding.md R83, first item: a reserved OP. -/
abbrev ReservedOp (w : Word) : Prop := (w.extractLsb' 28 4).toNat ∈ [0x0, 0xB, 0xC, 0xD, 0xE, 0xF]

/-- 30_encoding.md R83, second item: OP = 0x8 with a reserved TSEL. -/
abbrev ReservedTsel (w : Word) : Prop := (w.extractLsb' 28 4).toNat = 0x8 ∧ (w.extractLsb' 25 3).toNat ∈ [6, 7]

/-- 30_encoding.md R83, third item: OP = 0x9 or 0xA with an AMT outside [1, 4]. -/
abbrev BadAmount (w : Word) : Prop :=
  (w.extractLsb' 28 4).toNat ∈ [0x9, 0xA] ∧ (w.extractLsb' 25 3).toNat ∈ [0, 5, 6, 7]

/-- The must-be-zero bit ranges (high, low) of the format that OP and TSEL select (30_encoding.md R73 to R80). -/
def mustBeZeroRanges (op tsel : Nat) : List (Nat × Nat) :=
  match op with
  | 0x1 => [(27, 10)]
  | 0x2 => [(27, 24)]
  | 0x3 => [(27, 24)]
  | 0x4 => [(27, 16)]
  | 0x5 => [(27, 8)]
  | 0x6 => [(27, 16), (7, 4)]
  | 0x7 => [(27, 5)]
  | 0x8 => match tsel with
    | 0 => [(24, 10)]
    | 1 => [(24, 10)]
    | 2 => [(24, 4)]
    | 3 => [(24, 4)]
    | 4 => [(24, 8)]
    | 5 => [(24, 8)]
    | _ => []
  | 0x9 => [(24, 5)]
  | 0xA => [(24, 10)]
  | _ => []

/-- 30_encoding.md R82: a bit marked "must be 0" in the word's format is set. -/
def MustBeZeroBitSet (w : Word) : Prop :=
  ∃ r ∈ mustBeZeroRanges (w.extractLsb' 28 4).toNat (w.extractLsb' 25 3).toNat,
    ∃ b, r.2 ≤ b ∧ b ≤ r.1 ∧ w.getLsbD b = true

/-- An accepted Issue of the word w happens at this step (10_state.md R26): CMD_READY = 1 and the host writes w now, or
still offers it when the core moves. -/
abbrev State.issues (s : State) (w : Word) : Prop :=
  s.cmdReady = true ∧ (s.nextEvent = .write w ∨ (s.nextEvent = .core ∧ s.cmd = some w))

/-- RST is 1, or is driven to 1 at this step (70_reset_and_hazards.md R400). -/
abbrev State.resets (s : State) : Prop := s.rst = true ∨ s.nextEvent = .rst true

/-- An event that abandons the command in flight or stops the model: RST asserted, or a partial-width access. -/
def Event.disturbs : Event → Bool
  | .rst level => level
  | .partialRead _ _ => true
  | .partialWrite _ => true
  | .core => false
  | .write _ => false
  | .withdraw => false
  | .readResult => false
  | .readStatus => false
  | .readReady => false

end Sys2Proof.Machine
end

