-- ==== Sys2Proof/Certificates/Slice0/Obligations.lean ====
section
/-! DEFINITION. The statements for the provers. `CompletesWith i s v` says that `exec i s` answers the next state with v in
RESULT, a legal report in STATUS and everything else as in s, so a result statement is also the instruction's frame and
its completion. The fields `sched` and `reads` are the model's own (logs 3 and 7). -/

open Sys2Proof Sys2Proof.Machine

/-! ## Reset and the interface registers -/

/-- 10_state.md R39: the reset value of every piece of state; STATUS reads 0; the tables are those the instance is built
with, and driving RST leaves the tables of any state unchanged. -/
def Obligations.ResetStateHoldsSpecValues : Prop :=
  State.reset.core.CMDLATCH = 0 ∧ State.reset.core.RESULT = 0 ∧ State.reset.core.BUSY = false ∧
    State.reset.core.VALID = false ∧ State.reset.core.ILL = false ∧ State.reset.core.CAUSE = 0 ∧
    State.reset.core.status = 0 ∧ State.reset.tables = Config.tables ∧
    ∀ (s : State) (level : Bool), (s.driveRst level).tables = s.tables

/-- 70_reset_and_hazards.md R400: reset values while RST = 1 and at the step it is released, from any state; the tables
are not changed; CMD_READY = 0 and no Issue is accepted while RST = 1. That the host's own side (`cmd`, `reads`) is kept
is no word of R400 but the model's choice (logs 6 and 14). -/
def Obligations.ResetTakesResetValuesInAnyState : Prop :=
  ∀ s : State, s.tables.WellFormed →
    (∀ level rest, s.sched = .rst level :: rest → (level = true ∨ s.rst = true) →
      step s = .next { s with core := CoreState.reset, rst := level, sched := rest }) ∧
    (s.rst = true → s.cmdReady = false ∧
      ∀ t, step s = .next t → t.core = CoreState.reset ∧ t.tables = s.tables)

/-- 70_reset_and_hazards.md R401 (the schedule is the model's, log 3, and so is that `reads` is kept, log 14): a command in
flight when reset occurs never completes and writes no result; the core's next turn finds nothing to do. -/
def Obligations.ResetAbandonsCommandInFlight : Prop :=
  ∀ (s : State) (rest : List Event), s.running → s.core.BUSY = true → s.cmd = none →
    s.sched = .rst true :: .rst false :: .core :: rest →
    Host.Core.run Sys2Proof.core 3 s = .next { s with core := CoreState.reset, rst := false, sched := rest }

/-- 10_state.md R26: an offered word is accepted exactly when CMD_READY = 1, with the five writes of Issue and RESULT
unchanged; while BUSY = 1 no Issue happens and the host keeps offering the word, through Complete. That a new write replaces
a word the host still offers is no word of R26 but the model's choice (log 6). -/
def Obligations.IssueAcceptsOfferedWord : Prop :=
  ∀ (s : State) (w : Word), s.running →
    (s.core.BUSY = false → s.nextEvent = .write w →
      step s = .next { s with
        core := { s.core with CMDLATCH := w, BUSY := true, VALID := false, ILL := false, CAUSE := 0 }
        cmd := none
        sched := s.sched.tail }) ∧
    (s.core.BUSY = true → s.nextEvent = .write w →
      s.cmdReady = false ∧ step s = .next { s with cmd := some w, sched := s.sched.tail }) ∧
    (s.core.BUSY = true → s.cmd = some w → s.nextEvent = .core →
      ∃ t, step s = .next t ∧ t.core.BUSY = false ∧ t.cmd = some w)

/-- 70_reset_and_hazards.md R412, with the held offer and the schedule of the model (logs 3 and 6): a held offer is
accepted at the core's turn once BUSY = 0; a write offered while BUSY = 1 has no effect until then, and reports its own
result afterwards; a host that drops it reads the result of the command before. -/
def Obligations.WriteWhileBusyIsHeldOrLost : Prop :=
  (∀ (s : State) (w : Word), s.running → s.core.BUSY = false → s.cmd = some w → s.nextEvent = .core →
    step s = .next { s with
      core := { s.core with CMDLATCH := w, BUSY := true, VALID := false, ILL := false, CAUSE := 0 }
      cmd := none
      sched := s.sched.tail }) ∧
  ∀ (s : State) (w : Word) (rest : List Event), s.running → s.core.BUSY = true →
    (s.sched = .write w :: .core :: .core :: .core :: rest →
      ∃ t, Host.Core.run Sys2Proof.core 4 s = .next t ∧ t.core.CMDLATCH = w ∧ t.core.BUSY = false ∧
        t.core = t.core.completeWith (referenceExec s.tables w)) ∧
    (s.sched = .write w :: .withdraw :: .core :: .core :: .readResult :: rest →
      ∃ t, Host.Core.run Sys2Proof.core 5 s = .next t ∧ t.core.CMDLATCH = s.core.CMDLATCH ∧
        t.reads = s.reads ++
          [.result (s.core.completeWith (referenceExec s.tables s.core.CMDLATCH)).RESULT true])

/-- 20_memory.md R62: the word in flight stays in CMDLATCH until completion, and a change on the CMD port after
acceptance changes no register. -/
def Obligations.WordInFlightStaysLatched : Prop :=
  ∀ (s : State), s.running → s.core.BUSY = true →
    (∀ t, step s = .next t → t.core.BUSY = true → t.core.CMDLATCH = s.core.CMDLATCH) ∧
    (∀ w, s.nextEvent = .write w ∨ s.nextEvent = .withdraw → ∃ t, step s = .next t ∧ t.core = s.core)

/-- 10_state.md R36: in any state of the machine a read returns the current value (CMD_READY as in R25 and, while RST = 1,
70_reset_and_hazards.md R400; log 5) and changes nothing but what the host has seen (log 7). -/
def Obligations.ReadsReturnCurrentValuesOnly : Prop :=
  ∀ (s : State), s.Inv →
    (s.nextEvent = .readResult →
      step s = .next { s with sched := s.sched.tail, reads := s.reads ++ [.result s.core.RESULT s.core.completed] }) ∧
    (s.nextEvent = .readStatus →
      step s = .next { s with sched := s.sched.tail, reads := s.reads ++ [.status s.core.status s.core.completed] }) ∧
    (s.nextEvent = .readReady →
      step s = .next { s with
        sched := s.sched.tail
        reads := s.reads ++ [.ready (if s.rst then false else !s.core.BUSY)] })

/-- 10_state.md R28 to R33, R38: the STATUS read value bit by bit. -/
def Obligations.StatusReadsItsFields : Prop :=
  ∀ (c : CoreState) (j : Nat),
    c.status.getLsbD j =
      if j = 0 then c.BUSY else if j = 1 then c.VALID else if j = 2 then c.ILL
      else if j = 3 then false else if j < 8 then c.CAUSE.getLsbD (j - 4) else false

/-! ## Decoding -/

/-- Words written out from the formats of 30_encoding.md R73 to R80, one for each format. -/
def Obligations.WrittenWordsDecode : Prop :=
  decode 0b0001_000000000000000000_1010000010 = .ok (.genkey 0b1010000010) ∧
    decode 0b0010_0000_10100100_01000011_11010111 = .ok (.enc 0b10100100 0b01000011 0b11010111) ∧
    decode 0b0100_000000000000_10100100_11011101 = .ok (.fk 0b10100100 0b11011101) ∧
    decode 0b0101_00000000000000000000_00101101 = .ok (.sw 0b00101101) ∧
    decode 0b0110_000000000000_10100100_0000_1101 = .ok (.f 0b10100100 0b1101) ∧
    decode 0b0111_00000000000000000000000_1_1011 = .ok (.sbox1 0b1011) ∧
    decode 0b1000_011_000000000000000000000_1011 = .ok (.ep 0b1011) ∧
    decode 0b1001_010_00000000000000000000_10110 = .ok (.ls5 2 0b10110) ∧
    decode 0b1010_001_000000000000000_1000001100 = .ok (.ls10 1 0b1000001100)

/-- Every well-formed instruction is read back from its own word, with every operand at every value; an instruction with
an AMT outside [1, 4] is rejected as BAD_AMT (30_encoding.md R73 to R83). -/
def Obligations.DecodeOfEncodeIsIdentity : Prop :=
  ∀ i : Instr, decode (encode i) = if i.wellFormed then .ok i else .error .badAmt

/-- Each legal word has one meaning: the instruction read from it is well-formed and encodes back to the same word
(30_encoding.md R81, R82). -/
def Obligations.EncodeOfDecodeIsIdentity : Prop :=
  ∀ (w : Word) (i : Instr), decode w = .ok i → i.wellFormed = true ∧ encode i = w

/-- 30_encoding.md R86: every word is one of the sixteen legal instructions or illegal with one cause; a word is legal for
a row exactly when its mask and match and AMT say so; no two rows match the same word. -/
def Obligations.LegalWordsAreTheTableRows : Prop :=
  (∀ w : Word, (∃ i, decode w = .ok i) ↔ ∃ r ∈ opcodeRows, r.legal w) ∧
    (∀ w i, decode w = .ok i → i.row ∈ opcodeRows ∧ i.row.legal w) ∧
    (∀ w : Word, ∀ r₁ ∈ opcodeRows, ∀ r₂ ∈ opcodeRows,
      w &&& r₁.mask = r₁.pattern → w &&& r₂.mask = r₂.pattern → r₁ = r₂) ∧
    (∀ w : Word, (∃ i, decode w = .ok i) ∨ ∃! cause, decode w = .error cause)

/-- 30_encoding.md R83 and 60_exceptions.md R303: the complete list of illegal words, each with the first cause in the
order of priority; every other word is a legal command. -/
def Obligations.IllegalWordsGetFirstCause : Prop :=
  ∀ w : Word,
    (decode w = .error .rsvdOp ↔ ReservedOp w) ∧
    (decode w = .error .rsvdTsel ↔ ReservedTsel w) ∧
    (decode w = .error .badAmt ↔ BadAmount w) ∧
    (decode w = .error .rsvdBits ↔ MustBeZeroBitSet w ∧ ¬ReservedOp w ∧ ¬ReservedTsel w ∧ ¬BadAmount w) ∧
    ((∃ i, decode w = .ok i) ↔ ¬ReservedOp w ∧ ¬ReservedTsel w ∧ ¬BadAmount w ∧ ¬MustBeZeroBitSet w)

/-! ## Completion -/

/-- When the word in flight decodes to the instruction i and the core moves, the step is `exec i`, on the state with that
turn taken off the schedule. -/
def Obligations.StepRunsDecodedInstruction : Prop :=
  ∀ (s : State) (i : Instr), s.completing → decode s.core.CMDLATCH = .ok i → step s = exec i s.pop

/-- The word of a well-formed instruction, accepted by an idle core, runs exactly that instruction at the core's turn. -/
def Obligations.IssuedWordRunsItsInstruction : Prop :=
  ∀ (s : State) (i : Instr) (rest : List Event), i.wellFormed = true → s.running → s.core.BUSY = false →
    s.sched = .write (encode i) :: .core :: rest →
    ∃ t, step s = .next t ∧ step t = exec i t.pop ∧ t.core.RESULT = s.core.RESULT ∧ t.pop.sched = rest

/-- 60_exceptions.md R301, with the codes and conditions of R302: the whole effect of an illegal command; no unit runs and
nothing else changes. -/
def Obligations.IllegalCommandHasOnlyItsReport : Prop :=
  ∀ s : State, s.completing →
    (ReservedOp s.core.CMDLATCH → step s = .next (s.pop.afterIllegal 1)) ∧
    (ReservedTsel s.core.CMDLATCH → step s = .next (s.pop.afterIllegal 2)) ∧
    (BadAmount s.core.CMDLATCH → step s = .next (s.pop.afterIllegal 3)) ∧
    (MustBeZeroBitSet s.core.CMDLATCH → ¬ReservedOp s.core.CMDLATCH → ¬ReservedTsel s.core.CMDLATCH →
      ¬BadAmount s.core.CMDLATCH → step s = .next (s.pop.afterIllegal 4))

/-- 60_exceptions.md R306, last sentence: a completion ends without error exactly when its word is a legal command. -/
def Obligations.CompletionWithoutErrorMeansLegalWord : Prop :=
  ∀ s : State, s.completing →
    ∃ t, step s = .next t ∧ (t.withoutError ↔ ∃ i, decode s.core.CMDLATCH = .ok i) ∧
      (t.core.ILL = true ↔ ∃ cause, decode s.core.CMDLATCH = .error cause)

/-- 10_state.md R35 with 30_encoding.md R85: Complete writes what Exec of the tables and the word alone gives, on every
one of the 2^32 words. -/
def Obligations.CompleteAgreesWithExec : Prop :=
  ∀ s : State, s.completing →
    step s = .next { s.pop with core := s.core.completeWith (referenceExec s.tables s.core.CMDLATCH) }

/-- 10_state.md R35, 20_memory.md R57: two instances with the same tables and the same word complete with the same RESULT
and STATUS, whatever else differs. -/
def Obligations.OutcomeDependsOnWordAndTablesOnly : Prop :=
  ∀ s₁ s₂ : State, s₁.completing → s₂.completing → s₁.tables = s₂.tables →
    s₁.core.CMDLATCH = s₂.core.CMDLATCH →
    ∃ t₁ t₂, step s₁ = .next t₁ ∧ step s₂ = .next t₂ ∧ t₁.core = t₂.core

/-- 30_encoding.md R84, 40_permutation.md R111: every legal command completes from every state, RESULT is within the
width its row names, and everything but the report is unchanged. -/
def Obligations.EveryLegalCommandCompletesInWidth : Prop :=
  ∀ (i : Instr) (s : State), i.wellFormed = true →
    ∃ v : Word, CompletesWith i s v ∧ v.toNat < 2 ^ resultWidth i

/-! ## The unit functions, as commands -/

/-- 40_permutation.md R100: each of the six commands answers the value whose output position i holds the input bit at
position `T[i]`. -/
def Obligations.PermutationCommandsFollowTheirTable : Prop :=
  ∀ s : State,
    (∀ x, ∃ y, CompletesWith (.p10 x) s (zext32 y) ∧ PermutedBy s.tables.P10 x y) ∧
    (∀ x, ∃ y, CompletesWith (.p8 x) s (zext32 y) ∧ PermutedBy s.tables.P8 x y) ∧
    (∀ x, ∃ y, CompletesWith (.p4 x) s (zext32 y) ∧ PermutedBy s.tables.P4 x y) ∧
    (∀ x, ∃ y, CompletesWith (.ep x) s (zext32 y) ∧ PermutedBy s.tables.EP x y) ∧
    (∀ x, ∃ y, CompletesWith (.ip x) s (zext32 y) ∧ PermutedBy s.tables.IP x y) ∧
    (∀ x, ∃ y, CompletesWith (.ipinv x) s (zext32 y) ∧ PermutedBy s.tables.IPINV x y)

/-- The default record, which the model builds its instance with (log 1, PRESUMED: from general knowledge), has the entries
listed in 40_permutation.md section 1 and 42_sbox.md section 1, positions numbered from 1, and is well-formed. -/
def Obligations.DefaultTablesAreTheStandardOnes : Prop :=
  Config.tables.P10.toList.map (fun p => p.val + 1) = [3, 5, 2, 7, 4, 10, 1, 9, 8, 6] ∧
    Config.tables.P8.toList.map (fun p => p.val + 1) = [6, 3, 7, 4, 8, 5, 10, 9] ∧
    Config.tables.P4.toList.map (fun p => p.val + 1) = [2, 4, 3, 1] ∧
    Config.tables.EP.toList.map (fun p => p.val + 1) = [4, 1, 2, 3, 2, 3, 4, 1] ∧
    Config.tables.IP.toList.map (fun p => p.val + 1) = [2, 6, 3, 1, 4, 8, 5, 7] ∧
    Config.tables.IPINV.toList.map (fun p => p.val + 1) = [4, 1, 3, 5, 7, 2, 8, 6] ∧
    Config.tables.S0.toList.map (fun r => r.toList) = [[1, 0, 3, 2], [3, 2, 1, 0], [0, 2, 1, 3], [3, 1, 3, 2]] ∧
    Config.tables.S1.toList.map (fun r => r.toList) = [[0, 1, 2, 3], [2, 0, 1, 3], [3, 0, 1, 0], [2, 1, 0, 3]] ∧
    Config.tables.WellFormed

/-- 40_permutation.md R109: IP and IPINV undo each other, for every well-formed record. -/
def Obligations.IpAndIpinvUndoEachOther : Prop :=
  ∀ s : State, s.tables.WellFormed →
    (∀ x, ∃ y, CompletesWith (.ip x) s (zext32 y) ∧ CompletesWith (.ipinv y) s (zext32 x)) ∧
    (∀ x, ∃ y, CompletesWith (.ipinv x) s (zext32 y) ∧ CompletesWith (.ip y) s (zext32 x))

/-- 00_scope.md R9 (b): for every well-formed record the commands P10, P4 and IP are bijections of their values. -/
def Obligations.BijectiveTablesGiveBijectiveCommands : Prop :=
  ∀ s : State, s.tables.WellFormed →
    (∀ y : BitVec 10, ∃! x, CompletesWith (.p10 x) s (zext32 y)) ∧
    (∀ y : BitVec 4, ∃! x, CompletesWith (.p4 x) s (zext32 y)) ∧
    (∀ y : BitVec 8, ∃! x, CompletesWith (.ip x) s (zext32 y))

/-- 40_permutation.md R108, under the default tables (log 1): each source position is read twice, in the pairs of output positions
1 and 7, 2 and 8, 3 and 5, 4 and 6, so EP is not onto (for example 0x01 is no output), but it loses nothing. -/
def Obligations.ExpansionDuplicatesEveryPosition : Prop :=
  ∀ s : State, s.tables = Config.tables →
    (∀ x, ∃ y : BitVec 8, CompletesWith (.ep x) s (zext32 y) ∧
      y.getLsbD 7 = x.getLsbD 0 ∧ y.getLsbD 1 = x.getLsbD 0 ∧
      y.getLsbD 6 = x.getLsbD 3 ∧ y.getLsbD 0 = x.getLsbD 3 ∧
      y.getLsbD 5 = x.getLsbD 2 ∧ y.getLsbD 3 = x.getLsbD 2 ∧
      y.getLsbD 4 = x.getLsbD 1 ∧ y.getLsbD 2 = x.getLsbD 1) ∧
    (∀ x, ¬CompletesWith (.ep x) s 1)

/-- 41_key_schedule.md R130, R131: LS5 rotates circularly within exactly 5 bits for AMT in [1, 4] (bit j moves to bit
(j + AMT) mod 5) and is IllegalCommand(BAD_AMT), code 3, for every other AMT. -/
def Obligations.Ls5RotatesWithinFiveBits : Prop :=
  ∀ (s : State) (amt : BitVec 3) (x : KeyHalf),
    (1 ≤ amt.toNat ∧ amt.toNat ≤ 4 →
      ∃ y : KeyHalf, CompletesWith (.ls5 amt x) s (zext32 y) ∧
        ∀ j, j < 5 → y.getLsbD ((j + amt.toNat) % 5) = x.getLsbD j) ∧
    (amt.toNat = 0 ∨ 5 ≤ amt.toNat → exec (.ls5 amt x) s = .next (s.afterIllegal 3))

/-- 41_key_schedule.md R133: LS10 rotates each 5-bit half as LS5 does, and no bit crosses; an AMT outside [1, 4] is
IllegalCommand(BAD_AMT), code 3. -/
def Obligations.Ls10RotatesEachHalfAlone : Prop :=
  ∀ (s : State) (amt : BitVec 3) (x : BitVec 10),
    (1 ≤ amt.toNat ∧ amt.toNat ≤ 4 →
      ∃ y : BitVec 10, CompletesWith (.ls10 amt x) s (zext32 y) ∧
        CompletesWith (.ls5 amt (x.extractLsb' 5 5)) s (zext32 (y.extractLsb' 5 5)) ∧
        CompletesWith (.ls5 amt (x.extractLsb' 0 5)) s (zext32 (y.extractLsb' 0 5))) ∧
    (amt.toNat = 0 ∨ 5 ≤ amt.toNat → exec (.ls10 amt x) s = .next (s.afterIllegal 3))

/-- 41_key_schedule.md R131, R135: two rotations add up when their sum is below 5, in LS5 and in LS10. -/
def Obligations.RotationsAddUp : Prop :=
  ∀ (s : State) (a b : BitVec 3), 1 ≤ a.toNat → 1 ≤ b.toNat → a.toNat + b.toNat < 5 →
    (∀ x : KeyHalf, ∃ y z : KeyHalf, CompletesWith (.ls5 a x) s (zext32 y) ∧
      CompletesWith (.ls5 b y) s (zext32 z) ∧ CompletesWith (.ls5 (a + b) x) s (zext32 z)) ∧
    (∀ x : BitVec 10, ∃ y z : BitVec 10, CompletesWith (.ls10 a x) s (zext32 y) ∧
      CompletesWith (.ls10 b y) s (zext32 z) ∧ CompletesWith (.ls10 (a + b) x) s (zext32 z))

/-- 41_key_schedule.md R134, R135, R136: GENKEY answers SK1 in bits 15:8 and SK2 in bits 7:0, the P8 of LS1 and of LS2,
where LS1 is the P10 output shifted by 1 and LS2 is LS1 shifted by 2 more, which is the P10 output shifted by 3. -/
def Obligations.GenkeyFollowsTheKeySchedule : Prop :=
  ∀ (s : State) (key : MasterKey),
    ∃ (a ls1 ls2 : BitVec 10) (sk1 sk2 : Subkey),
      CompletesWith (.p10 key) s (zext32 a) ∧
      CompletesWith (.ls10 1 a) s (zext32 ls1) ∧ CompletesWith (.p8 ls1) s (zext32 sk1) ∧
      CompletesWith (.ls10 2 ls1) s (zext32 ls2) ∧ CompletesWith (.ls10 3 a) s (zext32 ls2) ∧
      CompletesWith (.p8 ls2) s (zext32 sk2) ∧
      CompletesWith (.genkey key) s (zext32 (sk1 ++ sk2))

/-- 41_key_schedule.md R136: under the default tables (log 1) the subkey pair determines the master key. -/
def Obligations.SubkeyPairDeterminesKeyByDefault : Prop :=
  ∀ (s : State), s.tables = Config.tables → ∀ (k₁ k₂ : MasterKey) (v : Word),
    CompletesWith (.genkey k₁) s v → CompletesWith (.genkey k₂) s v → k₁ = k₂

/-- 42_sbox.md R150: the row is bits 3 and 0 of the nibble, the column bits 2 and 1, the first named bit high, for both
boxes. -/
def Obligations.SboxReadsOuterRowInnerColumn : Prop :=
  ∀ (s : State) (nib : Nibble) (row col : Fin 4),
    row.val = 2 * (nib.getLsbD 3).toNat + (nib.getLsbD 0).toNat →
    col.val = 2 * (nib.getLsbD 2).toNat + (nib.getLsbD 1).toNat →
    CompletesWith (.sbox0 nib) s (zext32 s.tables.S0[row][col]) ∧
    CompletesWith (.sbox1 nib) s (zext32 s.tables.S1[row][col])

/-- 43_round_function.md R170: F is EP, XOR with the subkey, S0 on the left half and S1 on the right, S0's result in the
high 2 bits, then P4: whatever the unit's own commands answer at each stage, F answers what the last of them does. -/
def Obligations.RoundFunctionIsItsStages : Prop :=
  ∀ (s : State) (sk : Subkey) (nib : Nibble) (e : BitVec 8) (l r : BitVec 2) (out : Nibble),
    CompletesWith (.ep nib) s (zext32 e) →
    CompletesWith (.sbox0 ((e ^^^ sk).extractLsb' 4 4)) s (zext32 l) →
    CompletesWith (.sbox1 ((e ^^^ sk).extractLsb' 0 4)) s (zext32 r) →
    CompletesWith (.p4 (l ++ r)) s (zext32 out) →
    CompletesWith (.f sk nib) s (zext32 out)

/-- 43_round_function.md R171, R173: FK XORs F of the right half into the left, carries the right half unchanged, and
undoes itself, whatever the tables are. -/
def Obligations.FkMixesLeftAndUndoesItself : Prop :=
  ∀ (s : State) (sk : Subkey) (blk : Block),
    ∃ (y : Block) (fv : Nibble),
      CompletesWith (.f sk (blk.extractLsb' 0 4)) s (zext32 fv) ∧
      CompletesWith (.fk sk blk) s (zext32 y) ∧
      y.extractLsb' 4 4 = blk.extractLsb' 4 4 ^^^ fv ∧ y.extractLsb' 0 4 = blk.extractLsb' 0 4 ∧
      CompletesWith (.fk sk y) s (zext32 blk)

/-- 43_round_function.md R172: SW swaps the high and the low half, and undoes itself. -/
def Obligations.SwSwapsHalves : Prop :=
  ∀ (s : State) (blk : Block),
    ∃ y : Block, CompletesWith (.sw blk) s (zext32 y) ∧
      y.extractLsb' 4 4 = blk.extractLsb' 0 4 ∧ y.extractLsb' 0 4 = blk.extractLsb' 4 4 ∧
      CompletesWith (.sw y) s (zext32 blk)

/-- 43_round_function.md R174: SW is an involution; SW and, for every fixed subkey, FK are bijections of the blocks. -/
def Obligations.SwAndFkAreBijections : Prop :=
  ∀ (s : State),
    (∀ blk y : Block, CompletesWith (.sw blk) s (zext32 y) → CompletesWith (.sw y) s (zext32 blk)) ∧
    (∀ y : Block, ∃! blk, CompletesWith (.sw blk) s (zext32 y)) ∧
    (∀ (sk : Subkey) (y : Block), ∃! blk, CompletesWith (.fk sk blk) s (zext32 y))

/-- 44_cipher_core.md R190, R191, R192: ENC is IP, FK with SK1, one SW, FK with SK2, IPINV, and DEC the same with SK2
first: whatever the unit's own commands answer at each stage, ENC and DEC answer what the last of them does. No SW follows
the second FK. -/
def Obligations.CipherIsTwoRoundsWithOneSwitch : Prop :=
  ∀ (s : State) (sk1 sk2 : Subkey) (blk x₁ x₂ x₃ x₄ out : Block),
    CompletesWith (.ip blk) s (zext32 x₁) → CompletesWith (.sw x₂) s (zext32 x₃) →
    CompletesWith (.ipinv x₄) s (zext32 out) →
    (CompletesWith (.fk sk1 x₁) s (zext32 x₂) → CompletesWith (.fk sk2 x₃) s (zext32 x₄) →
      CompletesWith (.enc sk1 sk2 blk) s (zext32 out)) ∧
    (CompletesWith (.fk sk2 x₁) s (zext32 x₂) → CompletesWith (.fk sk1 x₃) s (zext32 x₄) →
      CompletesWith (.dec sk1 sk2 blk) s (zext32 out))

/-- 44_cipher_core.md R193 and R195: for every well-formed record, block and subkeys DEC undoes ENC, and DEC is ENC with
the subkeys swapped. -/
def Obligations.DecryptUndoesEncrypt : Prop :=
  (∀ (s : State) (a b : Subkey) (c : Block), exec (.dec a b c) s = exec (.enc b a c) s) ∧
    ∀ s : State, s.tables.WellFormed → ∀ (a b : Subkey) (p : Block),
      ∃ c : Block, CompletesWith (.enc a b p) s (zext32 c) ∧ CompletesWith (.dec a b c) s (zext32 p)

/-- 44_cipher_core.md R194: for fixed subkeys ENC is a bijection of the 256 blocks. -/
def Obligations.EncryptIsBijectionPerSubkeyPair : Prop :=
  ∀ s : State, s.tables.WellFormed → ∀ (a b : Subkey) (c : Block),
    ∃! p : Block, CompletesWith (.enc a b p) s (zext32 c)

/-! ## The machine as a whole -/

/-- 60_exceptions.md R306, 20_memory.md R55: a step is refused on a partial-width access and on an ill-formed record, and
answers a next state in every other case; nothing faults. -/
def Obligations.StepStopsOnlyWhereSpecRefuses : Prop :=
  ∀ s : State,
    (¬s.tables.WellFormed → step s = .refused .illFormedTables) ∧
    (s.tables.WellFormed → (∃ r width, s.nextEvent = .partialRead r width) ∨ (∃ width, s.nextEvent = .partialWrite width) →
      step s = .refused .partialWidthAccess) ∧
    (s.tables.WellFormed → (∀ r width, s.nextEvent ≠ .partialRead r width) → (∀ width, s.nextEvent ≠ .partialWrite width) →
      ∃ t, step s = .next t)

/-- The reset state meets the machine's invariant. -/
def Obligations.InvariantHoldsAtReset : Prop := State.reset.Inv

/-- Every step keeps the invariant: in particular, whenever VALID = 1, RESULT, ILL and CAUSE are the outcome of Exec on the
last issued word (10_state.md R30), ILL and CAUSE are clear while BUSY = 1 (R26), and RESULT is 0 until a first completion
(R27). -/
def Obligations.EveryStepKeepsTheInvariant : Prop :=
  ∀ s t : State, s.Inv → step s = .next t → t.Inv

/-- 10_state.md R27, R29, R34, R37: the tables never change; RESULT is written only by Complete and reset; CMDLATCH only
by Issue and reset; BUSY rises only at an Issue and falls only at Complete or reset. -/
def Obligations.RegistersHaveTheirOnlyWriters : Prop :=
  ∀ s t : State, step s = .next t →
    t.tables = s.tables ∧
    (t.core.RESULT ≠ s.core.RESULT → s.completing ∨ s.resets) ∧
    (t.core.CMDLATCH ≠ s.core.CMDLATCH → s.issues t.core.CMDLATCH ∨ s.resets) ∧
    (s.core.BUSY = false → t.core.BUSY = true → s.issues t.core.CMDLATCH) ∧
    (s.core.BUSY = true → t.core.BUSY = false → s.completing ∨ s.resets)

/-- 60_exceptions.md R305: the next accepted Issue clears ILL and CAUSE, and nothing else but reset does. The premise is
the machine's invariant (a state with ILL = 1 and a command in flight is not reached). -/
def Obligations.IllegalReportClearedByIssueOrReset : Prop :=
  ∀ s t : State, s.Inv → s.core.ILL = true → step s = .next t →
    ((∃ w, s.issues w) ∨ s.resets → t.core.ILL = false ∧ t.core.CAUSE = 0) ∧
    (¬(∃ w, s.issues w) → ¬s.resets → t.core.ILL = true ∧ t.core.CAUSE = s.core.CAUSE ∧ t.core = s.core)

/-- 70_reset_and_hazards.md R410: once a command is accepted and no reset occurs, Complete happens after finitely many
steps. The bound, one step after the scheduled events, is the model's (log 3). -/
def Obligations.AcceptedCommandCompletes : Prop :=
  ∀ s : State, s.running → s.core.BUSY = true → (∀ e ∈ s.sched, e.disturbs = false) →
    ∃ n t, n ≤ s.sched.length + 1 ∧ Host.Core.run Sys2Proof.core n s = .next t ∧
      t.core = s.core.completeWith (referenceExec s.tables s.core.CMDLATCH)

/-- 20_memory.md R58, 70_reset_and_hazards.md R413, R417: a host that issues any list of words one at a time, and reads
STATUS and RESULT after each completion, observes the outcomes of Exec on those words in order, and nothing else, and the run ends. The
schedule and the record of reads are the model's (logs 3 and 7). -/
def Obligations.HostProgramObservesEveryOutcome : Prop :=
  ∀ (ws : List Word) (s : State), s.running → s.core.BUSY = false → s.cmd = none → s.sched = hostProgram ws →
    ∃ t, Host.Core.run Sys2Proof.core (4 * ws.length) s = .next t ∧ t.sched = [] ∧ t.ended ∧
      t.reads = s.reads ++ ws.flatMap (readsAfter s.tables) ∧
      t.observation = s.observation ++ ws.flatMap (readsAfter s.tables)

/-- 70_reset_and_hazards.md R417: the observation of a run is the STATUS and RESULT values read after each completion, in
order, whatever else the host reads while a command is in flight. The schedule and the record of reads are the model's
(logs 3 and 7). -/
def Obligations.PollsAreNotObserved : Prop :=
  ∀ (ps : List (Word × List Event)) (s : State), s.running → s.core.BUSY = false → s.cmd = none →
    (∀ p ∈ ps, ∀ e ∈ p.2, e.isRead = true) → s.sched = pollingProgram ps →
    ∃ t, Host.Core.run Sys2Proof.core s.sched.length s = .next t ∧ t.ended ∧
      t.observation = s.observation ++ ps.flatMap fun p => readsAfter s.tables p.1

/-- 70_reset_and_hazards.md R417: a run has ended exactly when no command is in flight and none is from then on, so a host
that only goes on reading has ended, and one with a command left to issue has not. What is left to happen is the model's
schedule (log 3), and a run that reset interrupts is treated as log 14 says. -/
def Obligations.EndedMeansNothingInFlightAnyMore : Prop :=
  ∀ s : State, s.tables.WellFormed →
    (s.ended ↔ ∀ n t, Host.Core.run Sys2Proof.core n s = .next t → t.core.BUSY = false)

/-- 30_encoding.md R88: the expansions of the pseudo-instructions. -/
def Obligations.PseudoInstructionsExpand : Prop :=
  (∀ x, assemble (.ls1 x) = assemble (.ls10 1 x)) ∧
    (∀ x, assemble (.ls2 x) = assemble (.ls10 2 x)) ∧
    (∀ box nib, assemble (.sbox box nib) =
      if box = 0 then assemble (.sbox0 nib) else if box = 1 then assemble (.sbox1 nib) else none) ∧
    (∀ t x, assemble (.perm t x) =
      if t = 0 then assemble (.p10 x) else if t = 1 then assemble (.p8 x) else if t = 2 then assemble (.p4 x)
      else if t = 3 then assemble (.ep x) else if t = 4 then assemble (.ip x)
      else if t = 5 then assemble (.ipinv x) else none)

/-- 30_encoding.md R87, for its sixteen forms: a value that does not fit its field is an assembly error; the operands of a
line that assembles are the fields of the word, not truncated, and its must-be-zero bits are 0. -/
def Obligations.AssemblerNeverTruncates : Prop :=
  (∀ key, assembleWord (.genkey key) =
      if key < 1024 then some (BitVec.ofNat 32 (0x10000000 + key)) else none) ∧
    (∀ sk1 sk2 blk, assembleWord (.enc sk1 sk2 blk) =
      if sk1 < 256 ∧ sk2 < 256 ∧ blk < 256 then some (BitVec.ofNat 32 (0x20000000 + sk1 * 65536 + sk2 * 256 + blk)) else none) ∧
    (∀ sk1 sk2 blk, assembleWord (.dec sk1 sk2 blk) =
      if sk1 < 256 ∧ sk2 < 256 ∧ blk < 256 then some (BitVec.ofNat 32 (0x30000000 + sk1 * 65536 + sk2 * 256 + blk)) else none) ∧
    (∀ sk blk, assembleWord (.fk sk blk) =
      if sk < 256 ∧ blk < 256 then some (BitVec.ofNat 32 (0x40000000 + sk * 256 + blk)) else none) ∧
    (∀ blk, assembleWord (.sw blk) =
      if blk < 256 then some (BitVec.ofNat 32 (0x50000000 + blk)) else none) ∧
    (∀ sk nib, assembleWord (.f sk nib) =
      if sk < 256 ∧ nib < 16 then some (BitVec.ofNat 32 (0x60000000 + sk * 256 + nib)) else none) ∧
    (∀ nib, assembleWord (.sbox0 nib) =
      if nib < 16 then some (BitVec.ofNat 32 (0x70000000 + nib)) else none) ∧
    (∀ nib, assembleWord (.sbox1 nib) =
      if nib < 16 then some (BitVec.ofNat 32 (0x70000010 + nib)) else none) ∧
    (∀ x, assembleWord (.p10 x) =
      if x < 1024 then some (BitVec.ofNat 32 (0x80000000 + x)) else none) ∧
    (∀ x, assembleWord (.p8 x) =
      if x < 1024 then some (BitVec.ofNat 32 (0x82000000 + x)) else none) ∧
    (∀ x, assembleWord (.p4 x) =
      if x < 16 then some (BitVec.ofNat 32 (0x84000000 + x)) else none) ∧
    (∀ x, assembleWord (.ep x) =
      if x < 16 then some (BitVec.ofNat 32 (0x86000000 + x)) else none) ∧
    (∀ x, assembleWord (.ip x) =
      if x < 256 then some (BitVec.ofNat 32 (0x88000000 + x)) else none) ∧
    (∀ x, assembleWord (.ipinv x) =
      if x < 256 then some (BitVec.ofNat 32 (0x8A000000 + x)) else none) ∧
    (∀ amt x, assembleWord (.ls5 amt x) =
      if amt < 8 ∧ x < 32 then some (BitVec.ofNat 32 (0x90000000 + amt * 33554432 + x)) else none) ∧
    (∀ amt x, assembleWord (.ls10 amt x) =
      if amt < 8 ∧ x < 1024 then some (BitVec.ofNat 32 (0xA0000000 + amt * 33554432 + x)) else none)
end

