-- ==== Sys2Proof/Laws/Decode.lean ====
section
/-! SUPPORT. The fields of a word and the encoder as arithmetic on the word's number (30_encoding.md R71 to R81), so that
facts of the encoding close by linear arithmetic. -/

namespace Sys2Proof

/-- Concatenation as a number: the high part is shifted by the width of the low part (00_scope.md R14). -/
theorem toNat_append_eq {m n : Nat} (a : BitVec m) (b : BitVec n) :
    (a ++ b).toNat = a.toNat * 2 ^ n + b.toNat := by
  rw [BitVec.toNat_append, ← Nat.shiftLeft_add_eq_or_of_lt b.isLt, Nat.shiftLeft_eq]

theorem toNat_extractLsb'_eq {W : Nat} (w : BitVec W) (lo len : Nat) :
    (w.extractLsb' lo len).toNat = w.toNat / 2 ^ lo % 2 ^ len := by
  rw [BitVec.extractLsb'_toNat, Nat.shiftRight_eq_div_pow]

theorem opField_toNat (w : Word) : (opField w).toNat = w.toNat / 268435456 % 16 := toNat_extractLsb'_eq w 28 4

theorem tselField_toNat (w : Word) : (tselField w).toNat = w.toNat / 33554432 % 8 := toNat_extractLsb'_eq w 25 3

theorem amtField_toNat (w : Word) : (amtField w).toNat = w.toNat / 33554432 % 8 := toNat_extractLsb'_eq w 25 3

theorem boxField_toNat (w : Word) : (boxField w).toNat = w.toNat / 16 % 2 := toNat_extractLsb'_eq w 4 1

theorem sk1Field_toNat (w : Word) : (sk1Field w).toNat = w.toNat / 65536 % 256 := toNat_extractLsb'_eq w 16 8

theorem skField_toNat (w : Word) : (skField w).toNat = w.toNat / 256 % 256 := toNat_extractLsb'_eq w 8 8

theorem low10_toNat (w : Word) : (low10 w).toNat = w.toNat % 1024 :=
  (toNat_extractLsb'_eq w 0 10).trans (by rw [pow_zero, Nat.div_one]; rfl)

theorem low8_toNat (w : Word) : (low8 w).toNat = w.toNat % 256 :=
  (toNat_extractLsb'_eq w 0 8).trans (by rw [pow_zero, Nat.div_one]; rfl)

theorem low5_toNat (w : Word) : (low5 w).toNat = w.toNat % 32 :=
  (toNat_extractLsb'_eq w 0 5).trans (by rw [pow_zero, Nat.div_one]; rfl)

theorem low4_toNat (w : Word) : (low4 w).toNat = w.toNat % 16 :=
  (toNat_extractLsb'_eq w 0 4).trans (by rw [pow_zero, Nat.div_one]; rfl)

theorem zeroBits_iff (w : Word) (hi lo : Nat) :
    zeroBits w hi lo = true ↔ w.toNat / 2 ^ lo % 2 ^ (hi - lo + 1) = 0 := by
  rw [zeroBits, beq_iff_eq, ← toNat_extractLsb'_eq, BitVec.toNat_eq]
  rfl

/-- A range of bits is zero exactly when each of its bits is. -/
theorem zeroBits_iff_forall (w : Word) (hi lo : Nat) (h : lo ≤ hi) :
    zeroBits w hi lo = true ↔ ∀ b, lo ≤ b → b ≤ hi → w.getLsbD b = false := by
  rw [zeroBits, beq_iff_eq]
  constructor
  · intro hz b hb hb'
    have := congrArg (fun v => v.getLsbD (b - lo)) hz
    simpa [BitVec.getLsbD_extractLsb', show b - lo < hi - lo + 1 by omega, show lo + (b - lo) = b by omega] using this
  · intro hb
    apply BitVec.eq_of_getLsbD_eq
    intro i hi'
    simp [hi', hb (lo + i) (by omega) (by omega)]

/-! ## The encoder as arithmetic -/

theorem encode_genkey_toNat (key : MasterKey) : (encode (.genkey key)).toNat = 0x10000000 + key.toNat :=
  (toNat_append_eq (0x1#4 ++ 0#18) key).trans rfl

theorem encode_enc_toNat (a b : Subkey) (x : Block) :
    (encode (.enc a b x)).toNat = 0x20000000 + a.toNat * 65536 + b.toNat * 256 + x.toNat := by
  refine (toNat_append_eq (0x2#4 ++ 0#4 ++ a ++ b) x).trans ?_
  rw [toNat_append_eq (0x2#4 ++ 0#4 ++ a) b, toNat_append_eq (0x2#4 ++ 0#4) a, toNat_append_eq 0x2#4 0#4]
  simp only [BitVec.toNat_ofNat]
  omega

theorem encode_dec_toNat (a b : Subkey) (x : Block) :
    (encode (.dec a b x)).toNat = 0x30000000 + a.toNat * 65536 + b.toNat * 256 + x.toNat := by
  refine (toNat_append_eq (0x3#4 ++ 0#4 ++ a ++ b) x).trans ?_
  rw [toNat_append_eq (0x3#4 ++ 0#4 ++ a) b, toNat_append_eq (0x3#4 ++ 0#4) a, toNat_append_eq 0x3#4 0#4]
  simp only [BitVec.toNat_ofNat]
  omega

theorem encode_fk_toNat (sk : Subkey) (x : Block) :
    (encode (.fk sk x)).toNat = 0x40000000 + sk.toNat * 256 + x.toNat := by
  refine (toNat_append_eq (0x4#4 ++ 0#12 ++ sk) x).trans ?_
  rw [toNat_append_eq (0x4#4 ++ 0#12) sk, toNat_append_eq 0x4#4 0#12]
  simp only [BitVec.toNat_ofNat]
  omega

theorem encode_sw_toNat (x : Block) : (encode (.sw x)).toNat = 0x50000000 + x.toNat :=
  (toNat_append_eq (0x5#4 ++ 0#20) x).trans rfl

theorem encode_f_toNat (sk : Subkey) (nib : Nibble) :
    (encode (.f sk nib)).toNat = 0x60000000 + sk.toNat * 256 + nib.toNat := by
  refine (toNat_append_eq (0x6#4 ++ 0#12 ++ sk ++ 0#4) nib).trans ?_
  rw [toNat_append_eq (0x6#4 ++ 0#12 ++ sk) 0#4, toNat_append_eq (0x6#4 ++ 0#12) sk, toNat_append_eq 0x6#4 0#12]
  simp only [BitVec.toNat_ofNat]
  omega

theorem encode_sbox0_toNat (nib : Nibble) : (encode (.sbox0 nib)).toNat = 0x70000000 + nib.toNat :=
  (toNat_append_eq (0x7#4 ++ 0#23 ++ 0#1) nib).trans rfl

theorem encode_sbox1_toNat (nib : Nibble) : (encode (.sbox1 nib)).toNat = 0x70000010 + nib.toNat :=
  (toNat_append_eq (0x7#4 ++ 0#23 ++ 1#1) nib).trans rfl

theorem encode_p10_toNat (x : BitVec 10) : (encode (.p10 x)).toNat = 0x80000000 + x.toNat :=
  (toNat_append_eq (0x8#4 ++ 0#3 ++ 0#15) x).trans rfl

theorem encode_p8_toNat (x : BitVec 10) : (encode (.p8 x)).toNat = 0x82000000 + x.toNat :=
  (toNat_append_eq (0x8#4 ++ 1#3 ++ 0#15) x).trans rfl

theorem encode_p4_toNat (x : BitVec 4) : (encode (.p4 x)).toNat = 0x84000000 + x.toNat :=
  (toNat_append_eq (0x8#4 ++ 2#3 ++ 0#21) x).trans rfl

theorem encode_ep_toNat (x : BitVec 4) : (encode (.ep x)).toNat = 0x86000000 + x.toNat :=
  (toNat_append_eq (0x8#4 ++ 3#3 ++ 0#21) x).trans rfl

theorem encode_ip_toNat (x : Block) : (encode (.ip x)).toNat = 0x88000000 + x.toNat :=
  (toNat_append_eq (0x8#4 ++ 4#3 ++ 0#17) x).trans rfl

theorem encode_ipinv_toNat (x : Block) : (encode (.ipinv x)).toNat = 0x8A000000 + x.toNat :=
  (toNat_append_eq (0x8#4 ++ 5#3 ++ 0#17) x).trans rfl

theorem encode_ls5_toNat (amt : BitVec 3) (x : KeyHalf) :
    (encode (.ls5 amt x)).toNat = 0x90000000 + amt.toNat * 33554432 + x.toNat := by
  refine (toNat_append_eq (0x9#4 ++ amt ++ 0#20) x).trans ?_
  rw [toNat_append_eq (0x9#4 ++ amt) 0#20, toNat_append_eq 0x9#4 amt]
  simp only [BitVec.toNat_ofNat]
  omega

theorem encode_ls10_toNat (amt : BitVec 3) (x : BitVec 10) :
    (encode (.ls10 amt x)).toNat = 0xA0000000 + amt.toNat * 33554432 + x.toNat := by
  refine (toNat_append_eq (0xA#4 ++ amt ++ 0#15) x).trans ?_
  rw [toNat_append_eq (0xA#4 ++ amt) 0#15, toNat_append_eq 0xA#4 amt]
  simp only [BitVec.toNat_ofNat]
  omega

end Sys2Proof
end

