-- ==== Sys2Proof/Laws/PerInstr.lean ====
section
/-! SUPPORT. Statements made per instruction (LAWS.json). `EncodeNumber`: the number of an instruction's word is its
row's match value plus each operand at its place (30_encoding.md R73 to R80, and the match column of R86). -/

namespace Sys2Proof.Laws

/-- The match value of the instruction's row plus its operands, each times the weight of its lowest bit. -/
def encodeNumber : Instr → Nat
  | .genkey key => 0x10000000 + key.toNat
  | .enc sk1 sk2 blk => 0x20000000 + sk1.toNat * 65536 + sk2.toNat * 256 + blk.toNat
  | .dec sk1 sk2 blk => 0x30000000 + sk1.toNat * 65536 + sk2.toNat * 256 + blk.toNat
  | .fk sk blk => 0x40000000 + sk.toNat * 256 + blk.toNat
  | .sw blk => 0x50000000 + blk.toNat
  | .f sk nib => 0x60000000 + sk.toNat * 256 + nib.toNat
  | .sbox0 nib => 0x70000000 + nib.toNat
  | .sbox1 nib => 0x70000010 + nib.toNat
  | .p10 din => 0x80000000 + din.toNat
  | .p8 din => 0x82000000 + din.toNat
  | .p4 din => 0x84000000 + din.toNat
  | .ep din => 0x86000000 + din.toNat
  | .ip din => 0x88000000 + din.toNat
  | .ipinv din => 0x8A000000 + din.toNat
  | .ls5 amt din => 0x90000000 + amt.toNat * 33554432 + din.toNat
  | .ls10 amt din => 0xA0000000 + amt.toNat * 33554432 + din.toNat

/-- The encoder lays out exactly that number. -/
def EncodeNumber.Statement (i : Instr) : Prop := (encode i).toNat = encodeNumber i

theorem EncodeNumber.genkey (key : MasterKey) : EncodeNumber.Statement (.genkey key) :=
  encode_genkey_toNat key

theorem EncodeNumber.enc (sk1 sk2 : Subkey) (blk : Block) : EncodeNumber.Statement (.enc sk1 sk2 blk) :=
  encode_enc_toNat sk1 sk2 blk

theorem EncodeNumber.dec (sk1 sk2 : Subkey) (blk : Block) : EncodeNumber.Statement (.dec sk1 sk2 blk) :=
  encode_dec_toNat sk1 sk2 blk

theorem EncodeNumber.fk (sk : Subkey) (blk : Block) : EncodeNumber.Statement (.fk sk blk) :=
  encode_fk_toNat sk blk

theorem EncodeNumber.sw (blk : Block) : EncodeNumber.Statement (.sw blk) :=
  encode_sw_toNat blk

theorem EncodeNumber.f (sk : Subkey) (nib : Nibble) : EncodeNumber.Statement (.f sk nib) :=
  encode_f_toNat sk nib

theorem EncodeNumber.sbox0 (nib : Nibble) : EncodeNumber.Statement (.sbox0 nib) :=
  encode_sbox0_toNat nib

theorem EncodeNumber.sbox1 (nib : Nibble) : EncodeNumber.Statement (.sbox1 nib) :=
  encode_sbox1_toNat nib

theorem EncodeNumber.p10 (din : BitVec 10) : EncodeNumber.Statement (.p10 din) :=
  encode_p10_toNat din

theorem EncodeNumber.p8 (din : BitVec 10) : EncodeNumber.Statement (.p8 din) :=
  encode_p8_toNat din

theorem EncodeNumber.p4 (din : BitVec 4) : EncodeNumber.Statement (.p4 din) :=
  encode_p4_toNat din

theorem EncodeNumber.ep (din : BitVec 4) : EncodeNumber.Statement (.ep din) :=
  encode_ep_toNat din

theorem EncodeNumber.ip (din : Block) : EncodeNumber.Statement (.ip din) :=
  encode_ip_toNat din

theorem EncodeNumber.ipinv (din : Block) : EncodeNumber.Statement (.ipinv din) :=
  encode_ipinv_toNat din

theorem EncodeNumber.ls5 (amt : BitVec 3) (din : KeyHalf) : EncodeNumber.Statement (.ls5 amt din) :=
  encode_ls5_toNat amt din

theorem EncodeNumber.ls10 (amt : BitVec 3) (din : BitVec 10) : EncodeNumber.Statement (.ls10 amt din) :=
  encode_ls10_toNat amt din

end Sys2Proof.Laws
end

