-- ==== Sys2Proof/Laws/State.lean ====
section
/-! SUPPORT. One lemma per field per update of the state (10_state.md R38), and the small facts of the updates that test
a pin. -/

namespace Sys2Proof.Machine

@[simp] theorem CoreState.issue_CMDLATCH (w : Word) (c : CoreState) : (c.issue w).CMDLATCH = w := rfl
@[simp] theorem CoreState.issue_RESULT (w : Word) (c : CoreState) : (c.issue w).RESULT = c.RESULT := rfl
@[simp] theorem CoreState.issue_BUSY (w : Word) (c : CoreState) : (c.issue w).BUSY = true := rfl
@[simp] theorem CoreState.issue_VALID (w : Word) (c : CoreState) : (c.issue w).VALID = false := rfl
@[simp] theorem CoreState.issue_ILL (w : Word) (c : CoreState) : (c.issue w).ILL = false := rfl
@[simp] theorem CoreState.issue_CAUSE (w : Word) (c : CoreState) : (c.issue w).CAUSE = 0 := rfl

@[simp] theorem CoreState.completeOk_CMDLATCH (v : Word) (c : CoreState) : (c.completeOk v).CMDLATCH = c.CMDLATCH := rfl
@[simp] theorem CoreState.completeOk_RESULT (v : Word) (c : CoreState) : (c.completeOk v).RESULT = v := rfl
@[simp] theorem CoreState.completeOk_BUSY (v : Word) (c : CoreState) : (c.completeOk v).BUSY = false := rfl
@[simp] theorem CoreState.completeOk_VALID (v : Word) (c : CoreState) : (c.completeOk v).VALID = true := rfl
@[simp] theorem CoreState.completeOk_ILL (v : Word) (c : CoreState) : (c.completeOk v).ILL = false := rfl
@[simp] theorem CoreState.completeOk_CAUSE (v : Word) (c : CoreState) : (c.completeOk v).CAUSE = 0 := rfl

@[simp] theorem CoreState.completeIllegal_CMDLATCH (e : Cause) (c : CoreState) : (c.completeIllegal e).CMDLATCH = c.CMDLATCH := rfl
@[simp] theorem CoreState.completeIllegal_RESULT (e : Cause) (c : CoreState) : (c.completeIllegal e).RESULT = 0 := rfl
@[simp] theorem CoreState.completeIllegal_BUSY (e : Cause) (c : CoreState) : (c.completeIllegal e).BUSY = false := rfl
@[simp] theorem CoreState.completeIllegal_VALID (e : Cause) (c : CoreState) : (c.completeIllegal e).VALID = true := rfl
@[simp] theorem CoreState.completeIllegal_ILL (e : Cause) (c : CoreState) : (c.completeIllegal e).ILL = true := rfl
@[simp] theorem CoreState.completeIllegal_CAUSE (e : Cause) (c : CoreState) : (c.completeIllegal e).CAUSE = e.code := rfl

@[simp] theorem CoreState.reset_CMDLATCH : CoreState.reset.CMDLATCH = 0 := rfl
@[simp] theorem CoreState.reset_RESULT : CoreState.reset.RESULT = 0 := rfl
@[simp] theorem CoreState.reset_BUSY : CoreState.reset.BUSY = false := rfl
@[simp] theorem CoreState.reset_VALID : CoreState.reset.VALID = false := rfl
@[simp] theorem CoreState.reset_ILL : CoreState.reset.ILL = false := rfl
@[simp] theorem CoreState.reset_CAUSE : CoreState.reset.CAUSE = 0 := rfl

@[simp] theorem State.accept_core (w : Word) (s : State) : (s.accept w).core = s.core.issue w := rfl
@[simp] theorem State.accept_tables (w : Word) (s : State) : (s.accept w).tables = s.tables := rfl
@[simp] theorem State.accept_rst (w : Word) (s : State) : (s.accept w).rst = s.rst := rfl
@[simp] theorem State.accept_cmd (w : Word) (s : State) : (s.accept w).cmd = none := rfl
@[simp] theorem State.accept_sched (w : Word) (s : State) : (s.accept w).sched = s.sched := rfl
@[simp] theorem State.accept_reads (w : Word) (s : State) : (s.accept w).reads = s.reads := rfl

@[simp] theorem State.withdraw_core (s : State) : (s.withdraw).core = s.core := rfl
@[simp] theorem State.withdraw_tables (s : State) : (s.withdraw).tables = s.tables := rfl
@[simp] theorem State.withdraw_rst (s : State) : (s.withdraw).rst = s.rst := rfl
@[simp] theorem State.withdraw_cmd (s : State) : (s.withdraw).cmd = none := rfl
@[simp] theorem State.withdraw_sched (s : State) : (s.withdraw).sched = s.sched := rfl
@[simp] theorem State.withdraw_reads (s : State) : (s.withdraw).reads = s.reads := rfl

@[simp] theorem State.pop_core (s : State) : (s.pop).core = s.core := rfl
@[simp] theorem State.pop_tables (s : State) : (s.pop).tables = s.tables := rfl
@[simp] theorem State.pop_rst (s : State) : (s.pop).rst = s.rst := rfl
@[simp] theorem State.pop_cmd (s : State) : (s.pop).cmd = s.cmd := rfl
@[simp] theorem State.pop_sched (s : State) : (s.pop).sched = s.sched.tail := rfl
@[simp] theorem State.pop_reads (s : State) : (s.pop).reads = s.reads := rfl

@[simp] theorem State.hostReadResult_core (s : State) : (s.hostReadResult).core = s.core := rfl
@[simp] theorem State.hostReadResult_tables (s : State) : (s.hostReadResult).tables = s.tables := rfl
@[simp] theorem State.hostReadResult_rst (s : State) : (s.hostReadResult).rst = s.rst := rfl
@[simp] theorem State.hostReadResult_cmd (s : State) : (s.hostReadResult).cmd = s.cmd := rfl
@[simp] theorem State.hostReadResult_sched (s : State) : (s.hostReadResult).sched = s.sched := rfl
@[simp] theorem State.hostReadResult_reads (s : State) : (s.hostReadResult).reads = s.reads ++ [.result s.core.RESULT s.core.completed] := rfl

@[simp] theorem State.hostReadStatus_core (s : State) : (s.hostReadStatus).core = s.core := rfl
@[simp] theorem State.hostReadStatus_tables (s : State) : (s.hostReadStatus).tables = s.tables := rfl
@[simp] theorem State.hostReadStatus_rst (s : State) : (s.hostReadStatus).rst = s.rst := rfl
@[simp] theorem State.hostReadStatus_cmd (s : State) : (s.hostReadStatus).cmd = s.cmd := rfl
@[simp] theorem State.hostReadStatus_sched (s : State) : (s.hostReadStatus).sched = s.sched := rfl
@[simp] theorem State.hostReadStatus_reads (s : State) : (s.hostReadStatus).reads = s.reads ++ [.status s.core.status s.core.completed] := rfl

@[simp] theorem State.hostReadReady_core (s : State) : (s.hostReadReady).core = s.core := rfl
@[simp] theorem State.hostReadReady_tables (s : State) : (s.hostReadReady).tables = s.tables := rfl
@[simp] theorem State.hostReadReady_rst (s : State) : (s.hostReadReady).rst = s.rst := rfl
@[simp] theorem State.hostReadReady_cmd (s : State) : (s.hostReadReady).cmd = s.cmd := rfl
@[simp] theorem State.hostReadReady_sched (s : State) : (s.hostReadReady).sched = s.sched := rfl
@[simp] theorem State.hostReadReady_reads (s : State) : (s.hostReadReady).reads = s.reads ++ [.ready s.cmdReady] := rfl

@[simp] theorem State.afterIllegal_core (k : BitVec 4) (s : State) : (s.afterIllegal k).core = { s.core with RESULT := 0, ILL := true, CAUSE := k, VALID := true, BUSY := false } := rfl
@[simp] theorem State.afterIllegal_tables (k : BitVec 4) (s : State) : (s.afterIllegal k).tables = s.tables := rfl
@[simp] theorem State.afterIllegal_rst (k : BitVec 4) (s : State) : (s.afterIllegal k).rst = s.rst := rfl
@[simp] theorem State.afterIllegal_cmd (k : BitVec 4) (s : State) : (s.afterIllegal k).cmd = s.cmd := rfl
@[simp] theorem State.afterIllegal_sched (k : BitVec 4) (s : State) : (s.afterIllegal k).sched = s.sched := rfl
@[simp] theorem State.afterIllegal_reads (k : BitVec 4) (s : State) : (s.afterIllegal k).reads = s.reads := rfl

@[simp] theorem State.loadCommand_core (w : Word) (s : State) : (s.loadCommand w).core = s.core.issue w := rfl
@[simp] theorem State.loadCommand_tables (w : Word) (s : State) : (s.loadCommand w).tables = s.tables := rfl
@[simp] theorem State.loadCommand_rst (w : Word) (s : State) : (s.loadCommand w).rst = false := rfl
@[simp] theorem State.loadCommand_cmd (w : Word) (s : State) : (s.loadCommand w).cmd = s.cmd := rfl
@[simp] theorem State.loadCommand_sched (w : Word) (s : State) : (s.loadCommand w).sched = .core :: s.sched := rfl
@[simp] theorem State.loadCommand_reads (w : Word) (s : State) : (s.loadCommand w).reads = s.reads := rfl

@[simp] theorem State.reset_core : State.reset.core = CoreState.reset := rfl
@[simp] theorem State.reset_tables : State.reset.tables = Config.tables := rfl
@[simp] theorem State.reset_rst : State.reset.rst = false := rfl
@[simp] theorem State.reset_cmd : State.reset.cmd = none := rfl
@[simp] theorem State.reset_sched : State.reset.sched = [] := rfl
@[simp] theorem State.reset_reads : State.reset.reads = [] := rfl

/-! ## The updates that test a pin -/

@[simp] theorem State.cmdReady_accept (w : Word) (s : State) : (s.accept w).cmdReady = false := by
  simp [State.cmdReady]

@[simp] theorem State.cmdReady_pop (s : State) : s.pop.cmdReady = s.cmdReady := rfl

theorem State.cmdReady_iff (s : State) : s.cmdReady = true ↔ s.rst = false ∧ s.core.BUSY = false := by
  simp [State.cmdReady]

theorem State.holdReset_of_released {s : State} (h : s.rst = false) : s.holdReset = s := by
  simp [State.holdReset, h]

theorem State.holdReset_of_rst {s : State} (h : s.rst = true) :
    s.holdReset = { s with core := CoreState.reset } := by
  simp [State.holdReset, h]

@[simp] theorem State.holdReset_tables (s : State) : s.holdReset.tables = s.tables := by
  unfold State.holdReset; split <;> rfl

@[simp] theorem State.holdReset_rst (s : State) : s.holdReset.rst = s.rst := by
  unfold State.holdReset; split <;> rfl

@[simp] theorem State.holdReset_cmd (s : State) : s.holdReset.cmd = s.cmd := by
  unfold State.holdReset; split <;> rfl

@[simp] theorem State.holdReset_sched (s : State) : s.holdReset.sched = s.sched := by
  unfold State.holdReset; split <;> rfl

@[simp] theorem State.holdReset_reads (s : State) : s.holdReset.reads = s.reads := by
  unfold State.holdReset; split <;> rfl

theorem State.offer_of_ready {s : State} (w : Word) (h : s.cmdReady = true) : s.offer w = s.accept w := by
  simp [State.offer, h]

theorem State.offer_of_not_ready {s : State} (w : Word) (h : s.cmdReady = false) :
    s.offer w = { s with cmd := some w } := by
  simp [State.offer, h]

@[simp] theorem State.offer_tables (w : Word) (s : State) : (s.offer w).tables = s.tables := by
  unfold State.offer; split <;> rfl

@[simp] theorem State.offer_rst (w : Word) (s : State) : (s.offer w).rst = s.rst := by
  unfold State.offer; split <;> rfl

@[simp] theorem State.offer_sched (w : Word) (s : State) : (s.offer w).sched = s.sched := by
  unfold State.offer; split <;> rfl

@[simp] theorem State.offer_reads (w : Word) (s : State) : (s.offer w).reads = s.reads := by
  unfold State.offer; split <;> rfl

theorem State.offer_core (w : Word) (s : State) :
    (s.offer w).core = if s.cmdReady then s.core.issue w else s.core := by
  unfold State.offer; split <;> rfl

@[simp] theorem State.driveRst_cmd (level : Bool) (s : State) : (s.driveRst level).cmd = s.cmd := by
  unfold State.driveRst; split <;> rfl

@[simp] theorem State.driveRst_sched (level : Bool) (s : State) : (s.driveRst level).sched = s.sched := by
  unfold State.driveRst; split <;> rfl

@[simp] theorem State.driveRst_reads (level : Bool) (s : State) : (s.driveRst level).reads = s.reads := by
  unfold State.driveRst; split <;> rfl

@[simp] theorem State.driveRst_rst (level : Bool) (s : State) : (s.driveRst level).rst = level := by
  unfold State.driveRst; cases level <;> cases h : s.rst <;> simp_all

theorem State.driveRst_core (level : Bool) (s : State) :
    (s.driveRst level).core = if level || s.rst then CoreState.reset else s.core := by
  unfold State.driveRst; split <;> rfl

end Sys2Proof.Machine
end

