-- ==== Sys2Proof/Laws/Step.lean ====
section
/-! SUPPORT. What each shared operation and each event can do: one spec lemma each, and the inversion lemma of a step. -/

namespace Sys2Proof.Machine

/-- 10_state.md R35: everything a meaning of a decoded command can do is end the command, legally or as BAD_AMT. -/
theorem exec_next_cases {i : Instr} {s t : State} (h : exec i s = .next t) :
    (∃ v, t = { s with core := s.core.completeOk v }) ∨ t = { s with core := s.core.completeIllegal .badAmt } := by
  cases i with
  | ls5 amt x =>
    simp only [exec, execLs5] at h
    split at h
    · exact .inl ⟨_, by simpa [finish] using h.symm⟩
    · exact .inr (by simpa [raiseIllegal] using h.symm)
  | ls10 amt x =>
    simp only [exec, execLs10] at h
    split at h
    · exact .inl ⟨_, by simpa [finish] using h.symm⟩
    · exact .inr (by simpa [raiseIllegal] using h.symm)
  | _ => exact .inl ⟨_, (Host.Outcome.next.inj h).symm⟩

/-- A command completes with one value only. -/
theorem CompletesWith.unique {i : Instr} {s : State} {v w : Word} (hv : CompletesWith i s v) (hw : CompletesWith i s w) :
    v = w := by
  rw [CompletesWith, hv] at hw
  simpa using hw

/-- Every meaning answers a next state. -/
theorem exec_answers_next (i : Instr) (s : State) : ∃ t, exec i s = .next t := by
  cases i with
  | ls5 amt x => simp only [exec, execLs5]; split <;> exact ⟨_, rfl⟩
  | ls10 amt x => simp only [exec, execLs10]; split <;> exact ⟨_, rfl⟩
  | _ => exact ⟨_, rfl⟩

/-- 10_state.md R35: Complete answers a next state. -/
theorem complete_answers_next (s : State) : ∃ t, complete s = .next t := by
  unfold complete
  split
  · exact exec_answers_next _ _
  · exact ⟨_, rfl⟩

/-- 10_state.md R35: all that Complete can do. -/
theorem complete_next_cases {s t : State} (h : complete s = .next t) :
    (∃ v, t = { s with core := s.core.completeOk v }) ∨ ∃ e, t = { s with core := s.core.completeIllegal e } := by
  unfold complete at h
  split at h
  · exact (exec_next_cases h).imp_right fun h => ⟨_, h⟩
  · exact .inr ⟨_, by simpa [raiseIllegal] using h.symm⟩

/-- A step of a well-formed instance is its next event, on the state without it and with RST in force. -/
theorem step_of_wellFormed {s : State} (h : s.tables.WellFormed) :
    step s = runEvent s.nextEvent s.pop.holdReset := by
  exact if_pos h

/-- While RST is released the held-reset view is the state itself. -/
theorem step_of_running {s : State} (h : s.running) : step s = runEvent s.nextEvent s.pop := by
  rw [step_of_wellFormed h.1, State.holdReset_of_released (s := s.pop) h.2]

/-- A step answers a next state only for a well-formed instance. -/
theorem wellFormed_of_step_next {s t : State} (h : step s = .next t) : s.tables.WellFormed := by
  by_contra hw
  simp [step, runScheduled, hw] at h

/-- The core's turn with a command in flight is Complete. -/
theorem step_of_completing {s : State} (h : s.completing) : step s = complete s.pop := by
  rw [step_of_running h.1, h.2.2]
  simp [runEvent, coreTurn, h.2.1]

/-- Everything one event can do to a state. -/
theorem runEvent_next_cases {e : Event} {s t : State} (h : runEvent e s = .next t) :
    (e = .core ∧ s.core.BUSY = true ∧ complete s = .next t) ∨
    (e = .core ∧ s.core.BUSY = false ∧ ∃ w, s.cmd = some w ∧ t = s.offer w) ∨
    (e = .core ∧ s.core.BUSY = false ∧ s.cmd = none ∧ t = s) ∨
    (∃ w, e = .write w ∧ t = s.offer w) ∨
    (e = .withdraw ∧ t = s.withdraw) ∨
    (e = .readResult ∧ t = s.hostReadResult) ∨
    (e = .readStatus ∧ t = s.hostReadStatus) ∨
    (e = .readReady ∧ t = s.hostReadReady) ∨
    (∃ level, e = .rst level ∧ t = s.driveRst level) := by
  cases e with
  | core =>
    simp only [runEvent, coreTurn] at h
    split at h
    · exact .inl ⟨rfl, ‹_›, h⟩
    · simp only [acceptHeld] at h
      split at h
      · exact .inr (.inl ⟨rfl, by simp_all, _, ‹_›, (Host.Outcome.next.inj h).symm⟩)
      · exact .inr (.inr (.inl ⟨rfl, by simp_all, ‹_›, (Host.Outcome.next.inj h).symm⟩))
  | write w => simp_all [runEvent]
  | withdraw => simp_all [runEvent]
  | readResult => simp_all [runEvent]
  | readStatus => simp_all [runEvent]
  | readReady => simp_all [runEvent]
  | rst level => simp_all [runEvent]
  | partialRead r width => simp [runEvent] at h
  | partialWrite width => simp [runEvent] at h

/-- Inversion of a step: the instance is well-formed and one of the event's cases holds of the state with the event taken
off the schedule and RST in force. -/
theorem step_next_inv {s t : State} (h : step s = .next t) :
    s.tables.WellFormed ∧ runEvent s.nextEvent s.pop.holdReset = .next t := by
  have hw := wellFormed_of_step_next h
  exact ⟨hw, by rw [← step_of_wellFormed hw, h]⟩

/-- 70_reset_and_hazards.md R417: all that a step of an idle core can do to what is left to issue: the model refuses a
partial-width access, or an Issue makes the core busy where one was left, or the core stays idle with as much left. -/
theorem idle_step_cases {s : State} (hw : s.tables.WellFormed) (hb : s.core.BUSY = false) :
    (step s = .refused .partialWidthAccess ∧ issuesNoMore s.rst s.cmd.isSome s.sched = true) ∨
    ∃ t, step s = .next t ∧ t.tables = s.tables ∧ t.sched = s.sched.tail ∧
      (t.core.BUSY = true ∧ issuesNoMore s.rst s.cmd.isSome s.sched = false ∨
        t.core.BUSY = false ∧
          issuesNoMore t.rst t.cmd.isSome t.sched = issuesNoMore s.rst s.cmd.isSome s.sched) := by
  rw [step_of_wellFormed hw]
  rcases s with ⟨⟨_, _, b, _, _, _⟩, T, r, cmd, sched, reads⟩
  obtain rfl : b = false := hb
  cases r <;> cases cmd <;> rcases sched with _ | ⟨e | w | _ | _ | _ | _ | level | _ | _, sched⟩ <;>
    (try cases level) <;>
    simp [State.nextEvent, runEvent, coreTurn, acceptHeld, State.pop, State.holdReset, State.offer, State.accept,
      State.cmdReady, State.driveRst, State.withdraw, State.hostReadResult, State.hostReadStatus, State.hostReadReady,
      CoreState.issue, CoreState.reset, issuesNoMore]

/-- The observation after more reads is the earlier one and what of them was read after a completion. -/
theorem observation_append {s t : State} {more : List HostRead} (h : t.reads = s.reads ++ more) :
    t.observation = s.observation ++ more.filter HostRead.observed := by
  simp [State.observation, h]

/-- A run of one or more steps that answers a next state starts with a step that does. -/
theorem run_succ_next_inv {s t : State} {k : Nat} (h : Host.Core.run Sys2Proof.core (k + 1) s = .next t) :
    ∃ u, step s = .next u ∧ Host.Core.run Sys2Proof.core k u = .next t := by
  have h' : Sys2Proof.core.step s = step s := rfl
  simp only [Host.Core.run, h'] at h
  split at h
  · exact ⟨_, ‹_›, h⟩
  all_goals exact nomatch h

/-- A run of the machine that starts with a step to t goes on from t. -/
theorem run_succ_of_next {s t : State} (h : step s = .next t) (k : Nat) :
    Host.Core.run Sys2Proof.core (k + 1) s = Host.Core.run Sys2Proof.core k t := by
  have h' : Sys2Proof.core.step s = .next t := h
  simp only [Host.Core.run, h']

@[simp] theorem run_zero (s : State) : Host.Core.run Sys2Proof.core 0 s = .next s := rfl

end Sys2Proof.Machine
end

