-- ==== Sys2Proof/Laws/Units.lean ====
section
/-! SUPPORT. Bit-level facts of the unit functions: one spec lemma per unit (40_permutation.md R100, 41_key_schedule.md
R130, 42_sbox.md R150), the halves of 00_scope.md R14 and the injectivity of `zext_32`. -/

namespace Sys2Proof

theorem zext32_inj {n : Nat} (hn : n ≤ 32) {a b : BitVec n} (h : zext32 a = zext32 b) : a = b := by
  apply BitVec.eq_of_toNat_eq
  have ht := congrArg BitVec.toNat h
  have hp : 2 ^ n ≤ 2 ^ 32 := Nat.pow_le_pow_right (by decide) hn
  rwa [zext32, zext32, BitVec.toNat_setWidth, BitVec.toNat_setWidth, Nat.mod_eq_of_lt (by omega),
    Nat.mod_eq_of_lt (by omega)] at ht

theorem zext32_toNat {n : Nat} (hn : n ≤ 32) (a : BitVec n) : (zext32 a).toNat = a.toNat := by
  have hp : 2 ^ n ≤ 2 ^ 32 := Nat.pow_le_pow_right (by decide) hn
  rw [zext32, BitVec.toNat_setWidth, Nat.mod_eq_of_lt (by omega)]

/-- 40_permutation.md R100, with both positions as indices from the most significant bit. -/
theorem getLsbD_permute {wIn wOut : Nat} (t : Vector (Position wIn) wOut) (v : BitVec wIn) (i : Fin wOut) :
    (permute t v).getLsbD (wOut - 1 - i.val) = posBit v t[i] := by
  have hi := i.isLt
  simp [permute, show wOut - 1 - i.val < wOut by omega,
    show wOut - 1 - (wOut - 1 - i.val) = i.val by omega]

/-- Two values of one width are equal when they agree at every position. -/
theorem eq_of_posBit {W : Nat} {a b : BitVec W} (h : ∀ p : Fin W, posBit a p = posBit b p) : a = b := by
  apply BitVec.eq_of_getLsbD_eq
  intro i hi
  have hp := h ⟨W - 1 - i, by omega⟩
  simpa [posBit, show W - 1 - (W - 1 - i) = i by omega] using hp

@[simp] theorem posBit_permute {wIn wOut : Nat} (t : Vector (Position wIn) wOut) (v : BitVec wIn) (i : Fin wOut) :
    posBit (permute t v) i = posBit v t[i] := getLsbD_permute t v i

@[simp] theorem hi4_append (a b : Nibble) : hi4 (a ++ b) = a :=
  BitVec.extractLsb'_append_eq_left

@[simp] theorem lo4_append (a b : Nibble) : lo4 (a ++ b) = b :=
  BitVec.extractLsb'_append_eq_right

@[simp] theorem hi4_append_lo4 (x : Block) : hi4 x ++ lo4 x = x := by
  rw [hi4, lo4, BitVec.extractLsb'_append_extractLsb'_eq_extractLsb' (by rfl)]
  exact BitVec.extractLsb'_eq_self

@[simp] theorem hi5_append (a b : KeyHalf) : hi5 (a ++ b) = a :=
  BitVec.extractLsb'_append_eq_left

@[simp] theorem lo5_append (a b : KeyHalf) : lo5 (a ++ b) = b :=
  BitVec.extractLsb'_append_eq_right

theorem Amount.ofBits?_eq_some_iff (amt : BitVec 3) (n : Amount) :
    Amount.ofBits? amt = some n ↔ n.toNat = amt.toNat := by
  cases n <;> revert amt <;> decide

theorem Amount.ofBits?_isSome_eq_amountLegal (amt : BitVec 3) : (Amount.ofBits? amt).isSome = amountLegal amt := by
  revert amt
  decide

/-- 43_round_function.md R171: FK keeps the right half. -/
@[simp] theorem lo4_feistel (T : Tables) (x : Block) (k : Subkey) : lo4 (feistel T x k) = lo4 x := by
  simp [feistel]

/-- 43_round_function.md R171: FK XORs F of the right half into the left. -/
@[simp] theorem hi4_feistel (T : Tables) (x : Block) (k : Subkey) :
    hi4 (feistel T x k) = hi4 x ^^^ roundF T (lo4 x) k := by
  simp [feistel]

end Sys2Proof
end

