-- ==== Sys2Proof/Tests/Slice0.lean ====
section
/-! SUPPORT. Tests of the model on single steps, with expected values from 95_test_vectors.md (each test names its item),
words written out from the formats of 30_encoding.md, and one witness for the hypotheses of each obligation. -/

namespace Sys2Proof.Tests

open Sys2Proof.Machine

/-- RESULT and STATUS after the step that completes the word w, issued right after reset. -/
def outcomeOf (w : Nat) : Option (Word × Word) :=
  match step (State.reset.withFetchWord 32 w) with
  | .next t => some (t.core.RESULT, t.core.status)
  | .fault _ => none
  | .refused _ => none

/-- Right after reset, with a schedule. -/
def idle (sched : List Event) : State := { State.reset with sched := sched }

/-- Right after reset and the Issue of w, with a schedule. -/
def busy (w : Word) (sched : List Event) : State := { State.reset with core := CoreState.reset.issue w, sched := sched }

/-- A record that 00_scope.md R9 (b) does not allow: P4 lists position 1 twice. -/
def illFormed : Tables := { Config.tables with P4 := tableOf 4 [1, 1, 3, 4] }

/-! ## WellFormed: each check refuses an ill-formed term, at both ends of the range -/

theorem test_wellFormed_ls5_low : Instr.wellFormed (.ls5 0 1) = false ∧ Instr.wellFormed (.ls5 1 1) = true := by decide
theorem test_wellFormed_ls5_high : Instr.wellFormed (.ls5 5 1) = false ∧ Instr.wellFormed (.ls5 4 1) = true := by decide
theorem test_wellFormed_ls10_low : Instr.wellFormed (.ls10 0 1) = false ∧ Instr.wellFormed (.ls10 1 1) = true := by decide
theorem test_wellFormed_ls10_high : Instr.wellFormed (.ls10 7 1) = false ∧ Instr.wellFormed (.ls10 4 1) = true := by decide
theorem test_wellFormed_tables : ¬illFormed.WellFormed ∧ Config.tables.WellFormed := by decide

/-! ## Decode: every constructor's word, written out from 30_encoding.md R73 to R80 (OP first, then the fields) -/

theorem test_decode_genkey : decode 0b0001_000000000000000000_1010000010 = .ok (.genkey 0b1010000010) := by decide
theorem test_decode_enc : decode 0b0010_0000_10100100_01000011_11010111 = .ok (.enc 0b10100100 0b01000011 0b11010111) := by
  decide
theorem test_decode_dec : decode 0b0011_0000_10100100_01000011_10101000 = .ok (.dec 0b10100100 0b01000011 0b10101000) := by
  decide
theorem test_decode_fk : decode 0b0100_000000000000_10100100_11011101 = .ok (.fk 0b10100100 0b11011101) := by decide
theorem test_decode_sw : decode 0b0101_00000000000000000000_00101101 = .ok (.sw 0b00101101) := by decide
theorem test_decode_f : decode 0b0110_000000000000_10100100_0000_1101 = .ok (.f 0b10100100 0b1101) := by decide
theorem test_decode_sbox0 : decode 0b0111_00000000000000000000000_0_0100 = .ok (.sbox0 0b0100) := by decide
theorem test_decode_sbox1 : decode 0b0111_00000000000000000000000_1_1011 = .ok (.sbox1 0b1011) := by decide
theorem test_decode_p10 : decode 0b1000_000_000000000000000_1010000010 = .ok (.p10 0b1010000010) := by decide
theorem test_decode_p8 : decode 0b1000_001_000000000000000_0000111000 = .ok (.p8 0b0000111000) := by decide
theorem test_decode_p4 : decode 0b1000_010_000000000000000000000_1011 = .ok (.p4 0b1011) := by decide
theorem test_decode_ep : decode 0b1000_011_000000000000000000000_0001 = .ok (.ep 0b0001) := by decide
theorem test_decode_ip : decode 0b1000_100_00000000000000000_11010111 = .ok (.ip 0b11010111) := by decide
theorem test_decode_ipinv : decode 0b1000_101_00000000000000000_00110010 = .ok (.ipinv 0b00110010) := by decide
theorem test_decode_ls5 : decode 0b1001_100_00000000000000000000_10110 = .ok (.ls5 4 0b10110) := by decide
theorem test_decode_ls10 : decode 0b1010_001_000000000000000_1000001100 = .ok (.ls10 1 0b1000001100) := by decide
theorem test_decodeTableWord : decodeTableWord 32 0x4000A4DD = some (.fk 0xA4 0xDD) ∧ decodeTableWord 32 0x00000000 = none := by
  decide

/-! ## Illegal words: 95_test_vectors.md L2.6 and L3 program 5 -/

theorem test_illegal_zero : outcomeOf 0x00000000 = some (0, 0x16) := by decide
theorem test_illegal_ones : outcomeOf 0xFFFFFFFF = some (0, 0x16) := by decide
theorem test_illegal_tsel : outcomeOf 0x8C0000D7 = some (0, 0x26) := by decide
theorem test_illegal_tsel_before_bits : outcomeOf 0x8FFFFFFF = some (0, 0x26) := by decide
theorem test_illegal_amt_low : outcomeOf 0xA0000282 = some (0, 0x36) := by decide
theorem test_illegal_amt_high : outcomeOf 0x9A000001 = some (0, 0x36) := by decide
theorem test_illegal_amt_before_bits : outcomeOf 0x9FFFFFFF = some (0, 0x36) := by decide
theorem test_illegal_bits_genkey : outcomeOf 0x10000400 = some (0, 0x46) := by decide
theorem test_illegal_bits_f : outcomeOf 0x60000010 = some (0, 0x46) := by decide
theorem test_illegal_bits_ls5 : outcomeOf 0x93000000 = some (0, 0x46) := by decide

/-! ## One step of each command: 95_test_vectors.md L1 and L2 -/

/-- L1 item 1. -/
theorem test_genkey : outcomeOf 0x10000282 = some (0xA443, 2) := by decide
/-- L2.2, a key with no symmetry. -/
theorem test_genkey_second : outcomeOf 0x1000031E = some (0xE9A7, 2) := by decide
/-- L1 item 1. -/
theorem test_enc : outcomeOf 0x20A443D7 = some (0xA8, 2) := by decide
/-- L2.5, the subkeys swapped. -/
theorem test_enc_swapped : outcomeOf 0x2043A4D7 = some (0x7C, 2) := by decide
/-- L1 item 1. -/
theorem test_dec : outcomeOf 0x30A443A8 = some (0xD7, 2) := by decide
/-- L2.5. -/
theorem test_dec_second : outcomeOf 0x30E9A798 = some (0x01, 2) := by decide
/-- L2.4. -/
theorem test_fk : outcomeOf 0x4000A4DD = some (0x2D, 2) := by decide
/-- L2.4, FK again. -/
theorem test_fk_again : outcomeOf 0x4000A42D = some (0xDD, 2) := by decide
/-- L2.4. -/
theorem test_sw : outcomeOf 0x5000002D = some (0xD2, 2) := by decide
/-- L2.4. -/
theorem test_f : outcomeOf 0x6000A40D = some (0xF, 2) := by decide
/-- L2.4. -/
theorem test_f_second : outcomeOf 0x60004302 = some (0xE, 2) := by decide
/-- L2.3: row 0b00, column 0b10; a swap of row and column would give 0. -/
theorem test_sbox0 : outcomeOf 0x70000004 = some (3, 2) := by decide
/-- L1 item 3: a contiguous split would give 3. -/
theorem test_sbox0_index : outcomeOf 0x7000000B = some (1, 2) := by decide
/-- L2.3. -/
theorem test_sbox1 : outcomeOf 0x70000018 = some (3, 2) := by decide
/-- L1 item 3: a contiguous split would give 0. -/
theorem test_sbox1_index : outcomeOf 0x7000001B = some (1, 2) := by decide
/-- L2.1. -/
theorem test_p10 : outcomeOf 0x80000282 = some (0x20C, 2) := by decide
/-- L2.1, position 1 alone. -/
theorem test_p10_first : outcomeOf 0x80000200 = some (0x008, 2) := by decide
/-- L3 program 3. -/
theorem test_p8 : outcomeOf 0x82000038 = some (0xA4, 2) := by decide
/-- L2.1, a position P8 drops. -/
theorem test_p8_drops : outcomeOf 0x82000200 = some (0, 2) := by decide
/-- L2.1. -/
theorem test_p4 : outcomeOf 0x8400000B = some (0x7, 2) := by decide
/-- L1 item 4. -/
theorem test_ep : outcomeOf 0x86000001 = some (0x82, 2) := by decide
/-- L2.1. -/
theorem test_ep_second : outcomeOf 0x8600000B = some (0xD7, 2) := by decide
/-- L2.1. -/
theorem test_ip : outcomeOf 0x880000A5 = some (0x74, 2) := by decide
/-- L2.1. -/
theorem test_ipinv : outcomeOf 0x8A0000A5 = some (0x63, 2) := by decide
/-- L2.2: the top bit wraps. -/
theorem test_ls5_wraps : outcomeOf 0x92000010 = some (0x01, 2) := by decide
/-- L2.2. -/
theorem test_ls5_by_four : outcomeOf 0x98000016 = some (0x0B, 2) := by decide
/-- L2.2: the halves are independent. -/
theorem test_ls10_halves : outcomeOf 0xA2000210 = some (0x021, 2) := by decide
/-- L2.2. -/
theorem test_ls10_by_four : outcomeOf 0xA8000021 = some (0x210, 2) := by decide

/-! ## Other steps -/

/-- L3 program 6, event 1: RESULT unchanged, STATUS 1. -/
theorem test_issue : step (idle [.write 0x20A443D7]) = .next (busy 0x20A443D7 []) ∧
    (busy 0x20A443D7 []).core.status = 1 ∧ (busy 0x20A443D7 []).core.RESULT = 0 := ⟨rfl, by decide, rfl⟩
/-- L3 program 6, event 2. -/
theorem test_reset_in_flight : step (busy 0x20A443D7 [.rst true]) = .next { State.reset with rst := true } := by rfl
/-- 60_exceptions.md R334: nothing to do. -/
theorem test_idle : step State.reset = .next State.reset := by rfl
/-- 60_exceptions.md R306. -/
theorem test_partial_refused : step (idle [.partialWrite .byte]) = .refused .partialWidthAccess := by rfl

/-- The state after k steps, its observation and the number of reads made. -/
def observedAfter (k : Nat) (s : State) : Option (List HostRead × Nat) :=
  match Host.Core.run Sys2Proof.core k s with
  | .next t => some (t.observation, t.reads.length)
  | .fault _ => none
  | .refused _ => none

/-- 70_reset_and_hazards.md R417: a poll at BUSY = 1 and a read of CMD_READY are not observed, the reads after the completion
are (values of 95_test_vectors.md L2.4). -/
theorem test_observation :
    observedAfter 5 (busy 0x5000002D [.readStatus, .core, .readReady, .readStatus, .readResult]) =
      some ([.status 2 true, .result 0xD2 true], 4) := by decide
/-- 70_reset_and_hazards.md R417: a run that has only reads left has ended; one with a command left has not. -/
theorem test_ended :
    (idle [.readStatus, .readResult]).ended ∧ ¬(idle [.readStatus, .write 5]).ended ∧
      ¬({ idle [] with cmd := some 5 } : State).ended ∧ ({ idle [.withdraw] with cmd := some 5 } : State).ended := by decide

/-! ## Assembler text: 30_encoding.md R87, R88 and 95_test_vectors.md L3 -/

theorem test_text_binary : assembleText "GENKEY 0b1010000010" = some 0x10000282 := by decide
theorem test_text_operands : assembleText "ENC    0xA4, 0x43, 0b11010111" = some 0x20A443D7 := by decide
theorem test_text_decimal : assembleText "SW 45" = some 0x5000002D := by decide
theorem test_text_too_wide : assembleText "SW 256" = none := by decide
theorem test_text_pseudo : assembleText "LS1 0x20C" = some 0xA200020C := by decide

/-! ## Witnesses: for each obligation with hypotheses, a concrete case that meets them, for each of its clauses -/

/-- The reset state with RST asserted. -/
def inReset (sched : List Event) : State := { State.reset with rst := true, sched := sched }

/-- Right after the completion of the illegal word 0. -/
def illegalDone (sched : List Event) : State :=
  { State.reset with core := CoreState.reset.completeIllegal .rsvdOp, sched := sched }

theorem config_wellFormed : Config.tables.WellFormed := by decide

theorem coreInv_reset : CoreState.reset.Inv Config.tables := ⟨by decide, fun _ _ => rfl, by decide, by decide⟩

theorem coreInv_illegal : (CoreState.reset.completeIllegal .rsvdOp).Inv Config.tables :=
  ⟨by decide, by decide, by decide, by decide⟩

theorem inv_inReset (sched : List Event) : (inReset sched).Inv := ⟨config_wellFormed, coreInv_reset, fun _ => rfl⟩

theorem inv_illegalDone (sched : List Event) : (illegalDone sched).Inv := ⟨config_wellFormed, coreInv_illegal, nofun⟩

theorem running_idle (sched : List Event) : (idle sched).running := ⟨config_wellFormed, rfl⟩

theorem running_busy (w : Word) (sched : List Event) : (busy w sched).running := ⟨config_wellFormed, rfl⟩

theorem completing_busy (w : Word) (rest : List Event) : (busy w (.core :: rest)).completing :=
  ⟨running_busy w _, rfl, rfl⟩

/-- An empty schedule is the core's turn (log 3). -/
theorem completing_busy_unscheduled (w : Word) : (busy w []).completing := ⟨running_busy w _, rfl, rfl⟩

theorem witness_ResetTakesResetValuesInAnyState :
    (busy 5 [.rst true]).tables.WellFormed ∧ (busy 5 [.rst true]).sched = .rst true :: [] ∧
      (inReset [.rst false]).rst = true ∧ (inReset [.rst false]).sched = .rst false :: [] ∧
      ∃ t, step (inReset [.core]) = .next t :=
  ⟨by decide, rfl, rfl, rfl, _, rfl⟩

theorem witness_ResetAbandonsCommandInFlight (w : Word) :
    let s := busy w [.rst true, .rst false, .core]
    s.running ∧ s.core.BUSY = true ∧ s.cmd = none ∧ s.sched = .rst true :: .rst false :: .core :: [] :=
  ⟨running_busy w _, rfl, rfl, rfl⟩

/-- One state for each of the three clauses. -/
theorem witness_IssueAcceptsOfferedWord (w : Word) :
    ((idle [.write w]).running ∧ (idle [.write w]).core.BUSY = false ∧ (idle [.write w]).nextEvent = .write w) ∧
    ((busy 5 [.write w]).running ∧ (busy 5 [.write w]).core.BUSY = true ∧ (busy 5 [.write w]).nextEvent = .write w) ∧
    (∃ s : State, s.running ∧ s.core.BUSY = true ∧ s.cmd = some w ∧ s.nextEvent = .core) :=
  ⟨⟨running_idle _, rfl, rfl⟩, ⟨running_busy _ _, rfl, rfl⟩,
    ⟨{ busy 5 [] with cmd := some w }, running_busy 5 [], rfl, rfl, rfl⟩⟩

/-- One state for each of the three clauses. -/
theorem witness_WriteWhileBusyIsHeldOrLost (w : Word) :
    (∃ s : State, s.running ∧ s.core.BUSY = false ∧ s.cmd = some w ∧ s.nextEvent = .core) ∧
    ((busy 5 [.write w, .core, .core, .core]).running ∧ (busy 5 [.write w, .core, .core, .core]).core.BUSY = true) ∧
    ((busy 5 [.write w, .withdraw, .core, .core, .readResult]).running ∧
      (busy 5 [.write w, .withdraw, .core, .core, .readResult]).core.BUSY = true) :=
  ⟨⟨{ idle [] with cmd := some w }, running_idle [], rfl, rfl, rfl⟩, ⟨running_busy _ _, rfl⟩, ⟨running_busy _ _, rfl⟩⟩

theorem witness_WordInFlightStaysLatched (w : Word) :
    (busy 5 [.write w]).running ∧ (busy 5 [.write w]).core.BUSY = true ∧ (busy 5 [.write w]).nextEvent = .write w ∧
      (busy 5 [.withdraw]).nextEvent = .withdraw ∧
      ∃ t, step (busy 5 [.withdraw]) = .next t ∧ t.core.BUSY = true :=
  ⟨running_busy _ _, rfl, rfl, rfl, _, rfl, rfl⟩

theorem witness_ReadsReturnCurrentValuesOnly :
    (illegalDone [.readResult]).Inv ∧ (illegalDone [.readResult]).nextEvent = .readResult ∧
      (illegalDone [.readStatus]).Inv ∧ (illegalDone [.readStatus]).nextEvent = .readStatus ∧
      (inReset [.readReady]).Inv ∧ (inReset [.readReady]).nextEvent = .readReady :=
  ⟨inv_illegalDone _, rfl, inv_illegalDone _, rfl, inv_inReset _, rfl⟩

theorem witness_EncodeOfDecodeIsIdentity : decode 0xA80003FF = .ok (.ls10 4 0x3FF) := by decide

/-- Words of rows without and with an AMT check, at AMT 1 and 4. -/
theorem witness_LegalWordsAreTheTableRows :
    decode 0x500000FF = .ok (.sw 0xFF) ∧ decode 0x92000000 = .ok (.ls5 1 0) ∧ decode 0x9800001F = .ok (.ls5 4 0x1F) ∧
      (0xA8000000 : Word) &&& 0xF1FFFC00 = 0xA0000000 := by decide

/-- The first and last reserved OP and TSEL, the AMT values on both sides of [1, 4], and the last bit of a padding. -/
theorem witness_IllegalWordsGetFirstCause :
    ReservedOp 0x00000000 ∧ ReservedOp 0xB0000000 ∧ ReservedOp 0xF0000000 ∧ ¬ReservedOp 0xA0000000 ∧
      ReservedTsel 0x8C000000 ∧ ReservedTsel 0x8E000000 ∧ ¬ReservedTsel 0x8A000000 ∧
      BadAmount 0x90000000 ∧ ¬BadAmount 0x92000000 ∧ ¬BadAmount 0xA8000000 ∧ BadAmount 0xAA000000 := by decide

/-- The lowest must-be-zero bit of a GENKEY word. -/
theorem witness_MustBeZeroBitSet :
    MustBeZeroBitSet 0x10000400 ∧ ¬ReservedOp 0x10000400 ∧ ¬ReservedTsel 0x10000400 ∧ ¬BadAmount 0x10000400 :=
  ⟨⟨(27, 10), by decide, 10, by decide⟩, by decide, by decide, by decide⟩

theorem witness_StepRunsDecodedInstruction :
    (busy 0x5000002D []).completing ∧ decode (busy 0x5000002D []).core.CMDLATCH = .ok (.sw 0x2D) :=
  ⟨completing_busy_unscheduled _, by decide⟩

theorem witness_IssuedWordRunsItsInstruction :
    let s := idle [.write (encode (.ls5 4 0x1F)), .core]
    Instr.wellFormed (.ls5 4 0x1F) = true ∧ s.running ∧ s.core.BUSY = false ∧
      s.sched = .write (encode (.ls5 4 0x1F)) :: .core :: [] :=
  ⟨by decide, running_idle _, rfl, rfl⟩

/-- With `witness_IllegalWordsGetFirstCause` and `witness_MustBeZeroBitSet`, one state for each clause. -/
theorem witness_IllegalCommandHasOnlyItsReport :
    (busy 0 []).completing ∧ ReservedOp (busy 0 []).core.CMDLATCH ∧
      (busy 0x8E000000 []).completing ∧ ReservedTsel (busy 0x8E000000 []).core.CMDLATCH ∧
      (busy 0xAA000000 []).completing ∧ BadAmount (busy 0xAA000000 []).core.CMDLATCH ∧
      (busy 0x10000400 []).completing :=
  ⟨completing_busy_unscheduled _, by decide, completing_busy_unscheduled _, by decide, completing_busy_unscheduled _,
    by decide, completing_busy_unscheduled _⟩

/-- A legal and an illegal word in flight. -/
theorem witness_CompletionWithoutErrorMeansLegalWord :
    (busy 0x5000002D []).completing ∧ (busy 0 []).completing :=
  ⟨completing_busy_unscheduled _, completing_busy_unscheduled _⟩

theorem witness_CompleteAgreesWithExec (w : Word) : (busy w [.core]).completing := completing_busy w []

/-- Two states that differ in RESULT, in an offered word and in what is scheduled next. -/
theorem witness_OutcomeDependsOnWordAndTablesOnly (w : Word) :
    let s₁ := busy w []
    let s₂ := { busy w [.core, .readResult] with core := { (CoreState.reset.issue w) with RESULT := 7 }, cmd := some 5 }
    s₁.completing ∧ s₂.completing ∧ s₁.tables = s₂.tables ∧ s₁.core.CMDLATCH = s₂.core.CMDLATCH ∧ s₁.core ≠ s₂.core :=
  ⟨completing_busy_unscheduled w, ⟨running_busy w [], rfl, rfl⟩, rfl, rfl,
    fun h => absurd (congrArg CoreState.RESULT h) (show (0 : Word) ≠ 7 by decide)⟩

theorem witness_EveryLegalCommandCompletesInWidth :
    Instr.wellFormed (.genkey 0x3FF) = true ∧ Instr.wellFormed (.ls5 1 0) = true ∧ Instr.wellFormed (.ls10 4 0) = true := by
  decide

/-- For the obligations whose hypothesis is a well-formed record or the default record. -/
theorem witness_wellFormed_tables : State.reset.tables.WellFormed ∧ State.reset.tables = Config.tables :=
  ⟨by decide, rfl⟩

/-- Both ends of each clause's range of AMT. -/
theorem witness_Ls5RotatesWithinFiveBits :
    (1 ≤ (1#3).toNat ∧ (1#3).toNat ≤ 4) ∧ (1 ≤ (4#3).toNat ∧ (4#3).toNat ≤ 4) ∧ (0#3).toNat = 0 ∧
      5 ≤ (5#3).toNat ∧ 5 ≤ (7#3).toNat := by decide

theorem witness_Ls10RotatesEachHalfAlone :
    CompletesWith (.ls10 1 0x210) State.reset 0x021 ∧
      exec (.ls10 5 0x210) State.reset = .next (State.reset.afterIllegal 3) := ⟨rfl, rfl⟩

theorem witness_RotationsAddUp :
    (1 ≤ (1#3).toNat ∧ 1 ≤ (3#3).toNat ∧ (1#3).toNat + (3#3).toNat < 5) ∧
      (1 ≤ (3#3).toNat ∧ (3#3).toNat + (1#3).toNat < 5) := by decide

theorem witness_SubkeyPairDeterminesKeyByDefault :
    State.reset.tables = Config.tables ∧ CompletesWith (.genkey 0x282) State.reset 0xA443 := ⟨rfl, rfl⟩

/-- The nibble of 42_sbox.md R155: row 3, column 1. -/
theorem witness_SboxReadsOuterRowInnerColumn :
    (3 : Fin 4).val = 2 * ((0b1011#4).getLsbD 3).toNat + ((0b1011#4).getLsbD 0).toNat ∧
      (1 : Fin 4).val = 2 * ((0b1011#4).getLsbD 2).toNat + ((0b1011#4).getLsbD 1).toNat := by decide

/-- 95_test_vectors.md L3 program 4. -/
theorem witness_RoundFunctionIsItsStages :
    CompletesWith (.ep 0b1101) State.reset (zext32 0xEB#8) ∧
      CompletesWith (.sbox0 ((0xEB#8 ^^^ 0xA4#8).extractLsb' 4 4)) State.reset (zext32 3#2) ∧
      CompletesWith (.sbox1 ((0xEB#8 ^^^ 0xA4#8).extractLsb' 0 4)) State.reset (zext32 3#2) ∧
      CompletesWith (.p4 (3#2 ++ 3#2)) State.reset (zext32 0xF#4) := ⟨rfl, rfl, rfl, rfl⟩

/-- 95_test_vectors.md L3 program 2, and the trace of DEC in L1 item 1. -/
theorem witness_CipherIsTwoRoundsWithOneSwitch :
    (CompletesWith (.ip 0xD7) State.reset (zext32 0xDD#8) ∧ CompletesWith (.fk 0xA4 0xDD) State.reset (zext32 0x2D#8) ∧
      CompletesWith (.sw 0x2D) State.reset (zext32 0xD2#8) ∧ CompletesWith (.fk 0x43 0xD2) State.reset (zext32 0x32#8) ∧
      CompletesWith (.ipinv 0x32) State.reset (zext32 0xA8#8)) ∧
    (CompletesWith (.ip 0xA8) State.reset (zext32 0x32#8) ∧ CompletesWith (.fk 0x43 0x32) State.reset (zext32 0xD2#8) ∧
      CompletesWith (.sw 0xD2) State.reset (zext32 0x2D#8) ∧ CompletesWith (.fk 0xA4 0x2D) State.reset (zext32 0xDD#8) ∧
      CompletesWith (.ipinv 0xDD) State.reset (zext32 0xD7#8)) :=
  ⟨⟨rfl, rfl, rfl, rfl, rfl⟩, ⟨rfl, rfl, rfl, rfl, rfl⟩⟩

theorem witness_SwAndFkAreBijections : CompletesWith (.sw 0x2D) State.reset (zext32 (0xD2 : Block)) := rfl

theorem witness_StepStopsOnlyWhereSpecRefuses :
    ¬({ State.reset with tables := illFormed } : State).tables.WellFormed ∧
      State.reset.tables.WellFormed ∧
      (idle [.partialRead .status .halfWord]).nextEvent = .partialRead .status .halfWord ∧
      (idle [.partialWrite .byte]).nextEvent = .partialWrite .byte ∧ State.reset.nextEvent = .core :=
  ⟨by decide, by decide, rfl, rfl, rfl⟩

theorem witness_EveryStepKeepsTheInvariant : (illegalDone [.write 5]).Inv ∧ ∃ t, step (illegalDone [.write 5]) = .next t :=
  ⟨inv_illegalDone _, _, rfl⟩

/-- A step that changes RESULT and lowers BUSY, and one that changes CMDLATCH and raises BUSY. -/
theorem witness_RegistersHaveTheirOnlyWriters :
    (∃ t, step (busy 0x5000002D []) = .next t ∧ t.core.RESULT ≠ 0 ∧ t.core.BUSY = false) ∧
    (∃ t, step (idle [.write 5]) = .next t ∧ t.core.CMDLATCH ≠ 0 ∧ t.core.BUSY = true) :=
  ⟨⟨_, rfl, by decide, rfl⟩, ⟨_, rfl, by decide, rfl⟩⟩

/-- An Issue, a reset, and a step that is neither. -/
theorem witness_IllegalReportClearedByIssueOrReset :
    (illegalDone [.write 5]).Inv ∧ (illegalDone [.write 5]).core.ILL = true ∧ (illegalDone [.write 5]).issues 5 ∧
      (illegalDone [.rst true]).resets ∧
      (¬∃ w, (illegalDone [.readResult]).issues w) ∧ ¬(illegalDone [.readResult]).resets :=
  ⟨inv_illegalDone _, rfl, ⟨rfl, .inl rfl⟩, .inr rfl, by simp [illegalDone, State.nextEvent],
    by simp [illegalDone, State.nextEvent, State.reset]⟩

theorem witness_AcceptedCommandCompletes :
    let s := busy 0x5000002D [.readStatus, .rst false, .write 5, .core]
    s.running ∧ s.core.BUSY = true ∧ ∀ e ∈ s.sched, e.disturbs = false :=
  ⟨running_busy _ _, rfl, by decide⟩

theorem witness_HostProgramObservesEveryOutcome (ws : List Word) :
    let s := idle (hostProgram ws)
    s.running ∧ s.core.BUSY = false ∧ s.cmd = none ∧ s.sched = hostProgram ws :=
  ⟨running_idle _, rfl, rfl, rfl⟩

theorem witness_PollsAreNotObserved (w : Word) :
    let ps := [(w, [Event.readStatus, Event.readResult, Event.readReady])]
    let s := idle (pollingProgram ps)
    s.running ∧ s.core.BUSY = false ∧ s.cmd = none ∧ (∀ p ∈ ps, ∀ e ∈ p.2, e.isRead = true) ∧
      s.sched = pollingProgram ps :=
  ⟨running_idle _, rfl, rfl, by simp [Event.isRead], rfl⟩

/-- One state that has ended and one that has not. -/
theorem witness_EndedMeansNothingInFlightAnyMore :
    (idle [.readResult]).tables.WellFormed ∧ (idle [.readResult]).ended ∧
      (idle [.write 5]).tables.WellFormed ∧ ¬(idle [.write 5]).ended := by decide

end Sys2Proof.Tests
end

/-! The registers of 10_state.md: reset values (R39), the STATUS read value (R33, R38), and Complete as the
spec's Exec (R35, 30_encoding.md R85). -/

namespace Sys2Proof.Machine

/-! ## Reset and STATUS -/

/-- 10_state.md R37, R39: RST changes no table. -/
@[simp] theorem State.driveRst_tables (level : Bool) (s : State) : (s.driveRst level).tables = s.tables := by
  unfold State.driveRst; split <;> rfl

/-- 10_state.md R39: STATUS reads 0 after reset. -/
@[simp] theorem CoreState.reset_status : CoreState.reset.status = 0 := rfl

/-- Settles O1: each register's reset value, and the tables out of reach of RST. -/
theorem resetStateHoldsSpecValues : Obligations.ResetStateHoldsSpecValues :=
  ⟨rfl, rfl, rfl, rfl, rfl, rfl, CoreState.reset_status, State.reset_tables,
    fun s level => State.driveRst_tables level s⟩

/-- 10_state.md R38: STATUS is its five fields one above the other, the lowest first; each field reads 0 past its width. -/
theorem CoreState.getLsbD_status (c : CoreState) (j : Nat) :
    c.status.getLsbD j = (decide (j < 32) &&
      if j < 1 then (BitVec.ofBool c.BUSY).getLsbD j
      else if j - 1 < 1 then (BitVec.ofBool c.VALID).getLsbD (j - 1)
      else if j - 1 - 1 < 1 then (BitVec.ofBool c.ILL).getLsbD (j - 1 - 1)
      else if j - 1 - 1 - 1 < 1 then (0#1).getLsbD (j - 1 - 1 - 1)
      else c.CAUSE.getLsbD (j - 1 - 1 - 1 - 1)) := by
  simp only [CoreState.status, BitVec.getLsbD_setWidth, BitVec.getLsbD_append]

/-- Settles O8: the four low bits one by one, then CAUSE and the reserved bits above it. -/
theorem statusReadsItsFields : Obligations.StatusReadsItsFields := by
  intro c j
  rw [CoreState.getLsbD_status]
  match j with
  | 0 => simp
  | 1 => simp
  | 2 => simp
  | 3 => simp
  | k + 4 =>
    by_cases hk : k < 4
    · simp [hk, show k + 4 < 32 by omega, show k + 4 < 8 by omega]
    · simp [BitVec.getLsbD_of_ge c.CAUSE k (by omega)]

/-! ## Complete and Exec -/

/-- The state s after a command with the outcome `out` has completed (10_state.md R35). -/
def State.withOutcome (out : ExecOutcome) (s : State) : State := { s with core := s.core.completeWith out }

/-- Complete from the decoder's answer on (10_state.md R35): `complete` is this of the word in CMDLATCH
(`complete_eq_runDecoded`). -/
def runDecoded (d : Except Cause Instr) (s : State) : Result :=
  match d with
  | .ok i => exec i s
  | .error cause => raiseIllegal cause s

/-- 10_state.md R35: Complete decodes the word in CMDLATCH. -/
theorem complete_eq_runDecoded (s : State) : complete s = runDecoded (decode s.core.CMDLATCH) s := rfl

/-- A cause found by the decoder ends the command as Exec's `Illegal(cause)`. -/
@[simp] theorem runDecoded_error (cause : Cause) (s : State) :
    runDecoded (.error cause) s = .next (s.withOutcome (.illegal cause)) := rfl

/-- One row of 30_encoding.md R85: an instruction that ends with `value`, decoded under a test of its must-be-zero bits, is
Exec's `if … then Illegal(RSVD_BITS) else Ok(zext_32(value))`. -/
theorem runDecoded_requireZero {n : Nat} {value : BitVec n} {i : Instr} {s : State} {zero reservedBitSet : Bool}
    (hr : reservedBitSet = !zero) (hi : exec i s = finish value s) :
    runDecoded (requireZero zero i) s = .next (s.withOutcome (okUnless reservedBitSet value)) := by
  subst hr
  cases zero with
  | false => rfl
  | true => exact hi

/-- 30_encoding.md R78: BOX is bit 4. -/
theorem boxField_eq_zero_iff (w : Word) : boxField w = 0 ↔ w.getLsbD 4 = false := by
  rw [BitVec.toNat_eq, boxField_toNat, BitVec.getLsbD, Nat.testBit_eq_decide_div_mod_eq]
  simp

/-- 30_encoding.md R78, R85: OP = 0x7. -/
theorem runDecoded_decodeSbox (w : Word) (s : State) :
    runDecoded (decodeSbox w) s = .next (s.withOutcome (okUnless (w.extractLsb' 5 23 != 0)
      (if w.getLsbD 4 then sboxLookup s.tables.S1 (w.extractLsb' 0 4)
        else sboxLookup s.tables.S0 (w.extractLsb' 0 4)))) := by
  apply runDecoded_requireZero rfl
  cases h : w.getLsbD 4 with
  | false => rw [if_pos ((boxField_eq_zero_iff w).2 h)]; rfl
  | true => rw [if_neg (by rw [boxField_eq_zero_iff, h]; exact Bool.noConfusion)]; rfl

/-- 30_encoding.md R79, R85: OP = 0x8 with a table selected. -/
theorem runDecoded_decodePermutation {w : Word} (s : State) (h : (tselField w).toNat < 6) :
    runDecoded (decodePermutation w) s =
      .next (s.withOutcome (referencePermutation s.tables w (tselField w).toNat)) := by
  unfold decodePermutation
  generalize (tselField w).toNat = t at h ⊢
  match t, h with
  | 0, _ => exact runDecoded_requireZero rfl rfl
  | 1, _ => exact runDecoded_requireZero rfl rfl
  | 2, _ => exact runDecoded_requireZero rfl rfl
  | 3, _ => exact runDecoded_requireZero rfl rfl
  | 4, _ => exact runDecoded_requireZero rfl rfl
  | 5, _ => exact runDecoded_requireZero rfl rfl

/-- 30_encoding.md R79: TSEL 6 and 7 select no table. -/
theorem decodePermutation_of_reserved {w : Word} (h : 6 ≤ (tselField w).toNat) :
    decodePermutation w = .error .rsvdTsel := by
  unfold decodePermutation
  generalize (tselField w).toNat = t at h ⊢
  match t, h with
  | _ + 6, _ => rfl

/-- 30_encoding.md R80: an AMT that names no amount is outside [1, 4]. -/
theorem amountLegal_of_ofBits?_none {amt : BitVec 3} (h : Amount.ofBits? amt = none) : amountLegal amt = false := by
  rw [← Amount.ofBits?_isSome_eq_amountLegal, h]; rfl

/-- 30_encoding.md R80: an AMT that names an amount is in [1, 4]. -/
theorem amountLegal_of_ofBits?_some {amt : BitVec 3} {n : Amount} (h : Amount.ofBits? amt = some n) :
    amountLegal amt = true := by
  rw [← Amount.ofBits?_isSome_eq_amountLegal, h]; rfl

/-- 60_exceptions.md R302, R303: Exec reports BAD_AMT for a shift whose AMT names no amount. -/
theorem referenceExec_shift_of_none {T : Tables} {w : Word} (hop : (opField w).toNat = 0x9 ∨ (opField w).toNat = 0xA)
    (h : Amount.ofBits? (amtField w) = none) : referenceExec T w = .illegal .badAmt := by
  have hl := amountLegal_of_ofBits?_none h
  simp only [amountLegal, decide_eq_false_iff_not] at hl
  unfold referenceExec
  rw [← opField, ← amtField, if_neg (by omega), if_neg (by omega), if_pos ⟨hop, hl⟩]

/-- 30_encoding.md R85: Exec of a shift whose AMT names the amount n. -/
theorem referenceExec_shift_of_some {T : Tables} {w : Word} {n : Amount}
    (hop : (opField w).toNat = 0x9 ∨ (opField w).toNat = 0xA) (h : Amount.ofBits? (amtField w) = some n) :
    referenceExec T w = referenceShift w (opField w).toNat n := by
  have hn : n.toNat = (tselField w).toNat := (Amount.ofBits?_eq_some_iff _ _).1 h
  unfold referenceExec
  rw [← opField, ← tselField, ← hn]
  generalize (opField w).toNat = op at hop ⊢
  rcases hop with rfl | rfl <;> cases n <;> rfl

/-- 41_key_schedule.md R131: LS5 with an AMT that names the amount n. -/
theorem exec_ls5_of_some {amt : BitVec 3} {n : Amount} {din : KeyHalf} {s : State} (h : Amount.ofBits? amt = some n) :
    exec (.ls5 amt din) s = finish (rol5 din n) s := by
  simp [exec, execLs5, h]

/-- 41_key_schedule.md R132: LS10 with an AMT that names the amount n. -/
theorem exec_ls10_of_some {amt : BitVec 3} {n : Amount} {din : BitVec 10} {s : State}
    (h : Amount.ofBits? amt = some n) : exec (.ls10 amt din) s = finish (splitShift din n) s := by
  simp [exec, execLs10, h]

/-- 30_encoding.md R80: OP = 0x9 is LS5, its AMT checked first. -/
theorem decode_of_opLs5 {w : Word} (hop : (opField w).toNat = 0x9) :
    decode w = if amountLegal (amtField w)
      then requireZero (zeroBits w 24 5) (.ls5 (amtField w) (low5 w)) else .error .badAmt := by
  simp only [decode, hop]

/-- 30_encoding.md R80: OP = 0xA is LS10, its AMT checked first. -/
theorem decode_of_opLs10 {w : Word} (hop : (opField w).toNat = 0xA) :
    decode w = if amountLegal (amtField w)
      then requireZero (zeroBits w 24 10) (.ls10 (amtField w) (low10 w)) else .error .badAmt := by
  simp only [decode, hop]

/-- 30_encoding.md R80, R85: OP = 0x9. -/
theorem runDecoded_decode_ls5 {w : Word} (s : State) (hop : (opField w).toNat = 0x9) :
    runDecoded (decode w) s = .next (s.withOutcome (referenceExec s.tables w)) := by
  cases h : Amount.ofBits? (amtField w) with
  | none => rw [referenceExec_shift_of_none (.inl hop) h, decode_of_opLs5 hop, amountLegal_of_ofBits?_none h]; rfl
  | some n =>
    rw [referenceExec_shift_of_some (.inl hop) h, decode_of_opLs5 hop, amountLegal_of_ofBits?_some h, hop]
    exact runDecoded_requireZero rfl (exec_ls5_of_some h)

/-- 30_encoding.md R80, R85: OP = 0xA. -/
theorem runDecoded_decode_ls10 {w : Word} (s : State) (hop : (opField w).toNat = 0xA) :
    runDecoded (decode w) s = .next (s.withOutcome (referenceExec s.tables w)) := by
  cases h : Amount.ofBits? (amtField w) with
  | none => rw [referenceExec_shift_of_none (.inr hop) h, decode_of_opLs10 hop, amountLegal_of_ofBits?_none h]; rfl
  | some n =>
    rw [referenceExec_shift_of_some (.inr hop) h, decode_of_opLs10 hop, amountLegal_of_ofBits?_some h, hop]
    exact runDecoded_requireZero rfl (exec_ls10_of_some h)

/-- 10_state.md R35: Complete of a word is Exec of the tables and the word, opcode by opcode (30_encoding.md R85). -/
theorem runDecoded_decode (w : Word) (s : State) :
    runDecoded (decode w) s = .next (s.withOutcome (referenceExec s.tables w)) := by
  by_cases h9 : (opField w).toNat = 0x9
  · exact runDecoded_decode_ls5 s h9
  by_cases hA : (opField w).toNat = 0xA
  · exact runDecoded_decode_ls10 s hA
  unfold decode referenceExec
  rw [← opField, ← tselField]
  generalize (opField w).toNat = op at h9 hA ⊢
  match op with
  | 0 => rfl
  | 1 => exact runDecoded_requireZero rfl rfl
  | 2 => exact runDecoded_requireZero rfl rfl
  | 3 => exact runDecoded_requireZero rfl rfl
  | 4 => exact runDecoded_requireZero rfl rfl
  | 5 => exact runDecoded_requireZero rfl rfl
  | 6 => exact runDecoded_requireZero (Bool.not_and _ _).symm rfl
  | 7 => exact runDecoded_decodeSbox w s
  | 8 =>
    by_cases ht : 6 ≤ (tselField w).toNat
    · simp [decodePermutation_of_reserved ht, ht]
    · simpa [ht] using runDecoded_decodePermutation s (Nat.lt_of_not_le ht)
  | 9 => exact absurd rfl h9
  | 10 => exact absurd rfl hA
  | _ + 11 => rfl

/-- 10_state.md R35: Complete runs Exec on the word in CMDLATCH and changes nothing but the report. -/
theorem complete_eq_referenceExec (s : State) :
    complete s = .next (s.withOutcome (referenceExec s.tables s.core.CMDLATCH)) := by
  rw [complete_eq_runDecoded, runDecoded_decode]

/-- Settles O18: the step is Complete, and Complete is Exec of the word in CMDLATCH. -/
theorem completeAgreesWithExec : Obligations.CompleteAgreesWithExec := by
  intro s hs
  rw [step_of_completing hs]
  exact complete_eq_referenceExec s.pop

end Sys2Proof.Machine

/-! The words of 30_encoding.md: the pseudo-instructions of the assembler (R88), the illegal words and their causes (R83,
60_exceptions.md R303), and the legal words and the rows of the table (R86). -/

namespace Sys2Proof.Machine

/-! ## The pseudo-instructions -/

/-- Settles O48: each expansion is the form that the pseudo-instruction's selector picks, one case per selector. -/
theorem pseudoInstructionsExpand : Obligations.PseudoInstructionsExpand := by
  refine ⟨fun _ => rfl, fun _ => rfl, fun box nib => ?_, fun t x => ?_⟩
  · match box with
    | 0 => rfl
    | 1 => rfl
    | _ + 2 => rfl
  · match t with
    | 0 => rfl
    | 1 => rfl
    | 2 => rfl
    | 3 => rfl
    | 4 => rfl
    | 5 => rfl
    | _ + 6 => rfl

/-! ## Reserved values and must-be-zero bits -/

/-- 30_encoding.md R72, R83: the reserved OPs are the lowest and the five highest. -/
theorem reservedOp_iff (w : Word) : ReservedOp w ↔ (opField w).toNat = 0 ∨ 11 ≤ (opField w).toNat := by
  rw [ReservedOp, ← opField]
  generalize opField w = op
  revert op
  decide

/-- 30_encoding.md R79, R83: the reserved TSELs are the two highest. -/
theorem reservedTsel_iff (w : Word) : ReservedTsel w ↔ (opField w).toNat = 0x8 ∧ 6 ≤ (tselField w).toNat := by
  rw [ReservedTsel, ← opField, ← tselField]
  generalize tselField w = tsel
  refine and_congr_right fun _ => ?_
  revert tsel
  decide

/-- 30_encoding.md R80, R83: a rotation whose AMT is not legal. -/
theorem badAmount_iff (w : Word) :
    BadAmount w ↔ ((opField w).toNat = 0x9 ∨ (opField w).toNat = 0xA) ∧ amountLegal (amtField w) = false := by
  rw [BadAmount, List.mem_pair, ← opField, ← amtField]
  generalize amtField w = amt
  refine and_congr_right fun _ => ?_
  revert amt
  decide

/-- All the bits that the word's format marks "must be 0" are 0 (30_encoding.md R82). -/
def formatZero (w : Word) : Bool :=
  (mustBeZeroRanges (opField w).toNat (tselField w).toNat).all fun r => zeroBits w r.1 r.2

theorem mustBeZeroRanges_le {op tsel : Nat} {r : Nat × Nat} (h : r ∈ mustBeZeroRanges op tsel) : r.2 ≤ r.1 := by
  revert r
  unfold mustBeZeroRanges
  split
  case h_8 => split <;> decide
  all_goals decide

theorem formatZero_eq_false_iff (w : Word) : formatZero w = false ↔ MustBeZeroBitSet w := by
  rw [formatZero, List.all_eq_false]
  refine exists_congr fun r => and_congr_right fun hr => ?_
  rw [zeroBits_iff_forall w r.1 r.2 (mustBeZeroRanges_le hr)]
  simp

theorem mustBeZeroRanges_congr {op tsel tsel' : Nat} (h : op = 0x8 → tsel = tsel') :
    mustBeZeroRanges op tsel = mustBeZeroRanges op tsel' := by
  by_cases h8 : op = 0x8
  · rw [h h8]
  · unfold mustBeZeroRanges
    split
    case h_8 => exact absurd rfl h8
    all_goals rfl

/-! ## The rows of the opcode table -/

/-- The word has the row's OP and, where OP leaves a choice, its selector: BOX (30_encoding.md R78) or TSEL (R79). -/
def SelectsRow (w : Word) (r : OpcodeRow) : Prop :=
  (opField w).toNat = (opField r.pattern).toNat ∧
    ((opField r.pattern).toNat = 0x7 → boxField w = boxField r.pattern) ∧
    ((opField r.pattern).toNat = 0x8 → (tselField w).toNat = (tselField r.pattern).toNat)

/-- The bits (high, low) in which OP has a selector: BOX for the S-boxes, TSEL for the permutations. -/
def selectorRanges (op : Nat) : List (Nat × Nat) :=
  if op = 0x7 then [(4, 4)] else if op = 0x8 then [(27, 25)] else []

/-- The bit ranges that a row fixes: OP, its selector and its must-be-zero bits. -/
def fixedRanges (r : OpcodeRow) : List (Nat × Nat) :=
  (31, 28) :: selectorRanges (opField r.pattern).toNat ++
    mustBeZeroRanges (opField r.pattern).toNat (tselField r.pattern).toNat

/-- A row's mask is the bits that it fixes (30_encoding.md R86). -/
theorem mask_getLsbD_eq_fixedRanges : ∀ r ∈ opcodeRows, ∀ b < 32,
    r.mask.getLsbD b = (fixedRanges r).any fun x => decide (x.2 ≤ b ∧ b ≤ x.1) := by decide

theorem fixedRanges_le : ∀ r ∈ opcodeRows, ∀ x ∈ fixedRanges r, x.2 ≤ x.1 := by decide

theorem pattern_and_mask : ∀ r ∈ opcodeRows, r.pattern &&& r.mask = r.pattern := by decide

theorem formatZero_pattern : ∀ r ∈ opcodeRows, formatZero r.pattern = true := by decide

theorem zeroBits_xor_iff (w p : Word) (hi lo : Nat) :
    zeroBits (w ^^^ p) hi lo = true ↔ w.extractLsb' lo (hi - lo + 1) = p.extractLsb' lo (hi - lo + 1) := by
  rw [zeroBits, beq_iff_eq, BitVec.extractLsb'_xor]
  exact BitVec.xor_eq_zero_iff

/-- Where p is zero, differing from p nowhere is being zero. -/
theorem zeroBits_xor_of_zeroBits {w p : Word} {hi lo : Nat} (h : zeroBits p hi lo = true) :
    zeroBits (w ^^^ p) hi lo = zeroBits w hi lo := by
  rw [zeroBits, beq_iff_eq] at h
  rw [Bool.eq_iff_iff, zeroBits_xor_iff, h, zeroBits, beq_iff_eq]

/-- A word matches a mask and match exactly when it differs from the match in no bit of the mask. -/
theorem and_eq_iff_forall_getLsbD_xor {w mask pattern : Word} (hp : pattern &&& mask = pattern) :
    w &&& mask = pattern ↔ ∀ b < 32, mask.getLsbD b = true → (w ^^^ pattern).getLsbD b = false := by
  rw [BitVec.eq_of_getLsbD_eq_iff]
  refine forall₂_congr fun b _ => ?_
  have hb : (pattern.getLsbD b && mask.getLsbD b) = pattern.getLsbD b := by rw [← BitVec.getLsbD_and, hp]
  rw [BitVec.getLsbD_and, BitVec.getLsbD_xor, ← hb]
  cases mask.getLsbD b <;> simp

/-- A word matches a row exactly when it differs from the row's match value in none of the bits that the row fixes. -/
theorem and_mask_eq_pattern_iff_fixedRanges {r : OpcodeRow} (hr : r ∈ opcodeRows) (w : Word) :
    w &&& r.mask = r.pattern ↔ ∀ x ∈ fixedRanges r, zeroBits (w ^^^ r.pattern) x.1 x.2 = true := by
  have hmask := mask_getLsbD_eq_fixedRanges r hr
  calc w &&& r.mask = r.pattern
      ↔ ∀ b < 32, r.mask.getLsbD b = true → (w ^^^ r.pattern).getLsbD b = false :=
        and_eq_iff_forall_getLsbD_xor (pattern_and_mask r hr)
    _ ↔ ∀ b < 32, ∀ x ∈ fixedRanges r, x.2 ≤ b → b ≤ x.1 → (w ^^^ r.pattern).getLsbD b = false := by
        refine forall₂_congr fun b hb => ?_
        rw [hmask b hb, List.any_eq_true]
        simp only [decide_eq_true_eq, forall_exists_index, and_imp]
    _ ↔ ∀ x ∈ fixedRanges r, zeroBits (w ^^^ r.pattern) x.1 x.2 = true := by
        constructor
        · intro h x hx
          rw [zeroBits_iff_forall _ _ _ (fixedRanges_le r hr x hx)]
          intro b hlo hhi
          by_cases hb : b < 32
          · exact h b hb x hx hlo hhi
          · exact BitVec.getLsbD_of_ge _ _ (Nat.le_of_not_lt hb)
        · intro h b _ x hx hlo hhi
          exact (zeroBits_iff_forall _ _ _ (fixedRanges_le r hr x hx)).1 (h x hx) b hlo hhi

theorem forall_selectorRanges_iff (op : Nat) (w p : Word) :
    (∀ x ∈ selectorRanges op, zeroBits (w ^^^ p) x.1 x.2 = true) ↔
      (op = 0x7 → boxField w = boxField p) ∧ (op = 0x8 → (tselField w).toNat = (tselField p).toNat) := by
  unfold selectorRanges
  rw [← BitVec.toNat_eq]
  split
  case isTrue h => subst h; simp [zeroBits_xor_iff, boxField]
  case isFalse h7 =>
    split
    case isTrue h => subst h; simp [zeroBits_xor_iff, tselField]
    case isFalse h8 => simp [h7, h8]

theorem forall_mustBeZeroRanges_iff {r : OpcodeRow} (hr : r ∈ opcodeRows) (w : Word) (h : SelectsRow w r) :
    (∀ x ∈ mustBeZeroRanges (opField r.pattern).toNat (tselField r.pattern).toNat,
      zeroBits (w ^^^ r.pattern) x.1 x.2 = true) ↔ formatZero w = true := by
  obtain ⟨hop, -, htsel⟩ := h
  rw [formatZero, List.all_eq_true, hop, mustBeZeroRanges_congr htsel]
  have hp := formatZero_pattern r hr
  rw [formatZero, List.all_eq_true] at hp
  exact forall₂_congr fun x hx => by rw [zeroBits_xor_of_zeroBits (hp x hx)]

/-- 30_encoding.md R86: a word matches a row's mask and match exactly when OP and the selector are the row's and the
must-be-zero bits of the format they select are 0. -/
theorem and_mask_eq_pattern_iff {r : OpcodeRow} (hr : r ∈ opcodeRows) (w : Word) :
    w &&& r.mask = r.pattern ↔ SelectsRow w r ∧ formatZero w = true := by
  have hop : zeroBits (w ^^^ r.pattern) 31 28 = true ↔ (opField w).toNat = (opField r.pattern).toNat := by
    rw [zeroBits_xor_iff, BitVec.toNat_eq]; rfl
  rw [and_mask_eq_pattern_iff_fixedRanges hr, fixedRanges, List.cons_append, List.forall_mem_cons,
    List.forall_mem_append, forall_selectorRanges_iff, hop, ← and_assoc]
  exact and_congr_right (forall_mustBeZeroRanges_iff hr w)

/-! ## The decoder's one case analysis -/

/-- What the decoder knows of a word when it comes to the must-be-zero bits: the instruction i that the word is if they
are 0, and whose row the word selects. -/
def ReadsAs (w : Word) (i : Instr) : Prop := decode w = requireZero (formatZero w) i ∧ SelectsRow w i.row

/-- A format with one must-be-zero range: the last step of its check over a list of ranges. -/
theorem requireZero_eq_and_true (zero : Bool) (i : Instr) : requireZero zero i = requireZero (zero && true) i := by
  rw [Bool.and_true]

theorem amountLegal_of_not_badAmount {w : Word} (h : ¬BadAmount w)
    (hop : (opField w).toNat = 0x9 ∨ (opField w).toNat = 0xA) : amountLegal (amtField w) = true := by
  rw [← Bool.not_eq_false]
  exact fun ha => h ((badAmount_iff w).2 ⟨hop, ha⟩)

/-- 30_encoding.md R78: either box. -/
theorem exists_readsAs_of_opSbox {w : Word} (hop : (opField w).toNat = 0x7) : ∃ i, ReadsAs w i := by
  unfold ReadsAs SelectsRow decode decodeSbox formatZero
  rw [hop]
  rcases BitVec.eq_zero_or_eq_one (boxField w) with hbox | hbox
  · rw [hbox]
    exact ⟨_, requireZero_eq_and_true _ _, by simp [Instr.row, opField, boxField]⟩
  · rw [hbox]
    exact ⟨_, requireZero_eq_and_true _ _, by simp [Instr.row, opField, boxField]⟩

/-- 30_encoding.md R79: each of the six tables. -/
theorem exists_readsAs_of_opPermutation {w : Word} (hop : (opField w).toNat = 0x8) (htsel : (tselField w).toNat < 6) :
    ∃ i, ReadsAs w i := by
  unfold ReadsAs SelectsRow decode decodePermutation formatZero
  rw [hop]
  generalize (tselField w).toNat = tsel at htsel ⊢
  match tsel, htsel with
  | 0, _ => exact ⟨_, requireZero_eq_and_true _ _, by simp [Instr.row, opField, tselField]⟩
  | 1, _ => exact ⟨_, requireZero_eq_and_true _ _, by simp [Instr.row, opField, tselField]⟩
  | 2, _ => exact ⟨_, requireZero_eq_and_true _ _, by simp [Instr.row, opField, tselField]⟩
  | 3, _ => exact ⟨_, requireZero_eq_and_true _ _, by simp [Instr.row, opField, tselField]⟩
  | 4, _ => exact ⟨_, requireZero_eq_and_true _ _, by simp [Instr.row, opField, tselField]⟩
  | 5, _ => exact ⟨_, requireZero_eq_and_true _ _, by simp [Instr.row, opField, tselField]⟩

/-- A word whose OP and TSEL are legal and whose AMT is in range is an instruction up to its must-be-zero bits. -/
theorem exists_readsAs {w : Word} (hop : ¬ReservedOp w) (htsel : ¬ReservedTsel w) (hamt : ¬BadAmount w) :
    ∃ i, ReadsAs w i := by
  by_cases h7 : (opField w).toNat = 0x7
  · exact exists_readsAs_of_opSbox h7
  by_cases h8 : (opField w).toNat = 0x8
  · exact exists_readsAs_of_opPermutation h8 (Nat.lt_of_not_le fun h6 => htsel ((reservedTsel_iff w).2 ⟨h8, h6⟩))
  have hlegal := amountLegal_of_not_badAmount hamt
  rw [reservedOp_iff, not_or] at hop
  obtain ⟨hop0, hop11⟩ := hop
  unfold ReadsAs SelectsRow decode formatZero
  generalize (opField w).toNat = op at hop0 hop11 h7 h8 hlegal ⊢
  match op with
  | 0 => exact absurd rfl hop0
  | 1 => exact ⟨_, requireZero_eq_and_true _ _, by simp [Instr.row, opField]⟩
  | 2 => exact ⟨_, requireZero_eq_and_true _ _, by simp [Instr.row, opField]⟩
  | 3 => exact ⟨_, requireZero_eq_and_true _ _, by simp [Instr.row, opField]⟩
  | 4 => exact ⟨_, requireZero_eq_and_true _ _, by simp [Instr.row, opField]⟩
  | 5 => exact ⟨_, requireZero_eq_and_true _ _, by simp [Instr.row, opField]⟩
  | 6 =>
    have hlast := congrArg (zeroBits w 27 16 && ·) (Bool.and_true (zeroBits w 7 4)).symm
    exact ⟨_, congrArg (requireZero · _) hlast, by simp [Instr.row, opField]⟩
  | 7 => exact absurd rfl h7
  | 8 => exact absurd rfl h8
  | 9 => exact ⟨_, (if_pos (hlegal (.inl rfl))).trans (requireZero_eq_and_true _ _), by simp [Instr.row, opField]⟩
  | 10 => exact ⟨_, (if_pos (hlegal (.inr rfl))).trans (requireZero_eq_and_true _ _), by simp [Instr.row, opField]⟩
  | op + 11 => exact absurd (Nat.le_add_left 11 op) hop11

/-! ## The complete list of illegal words -/

theorem decode_of_reservedOp {w : Word} (h : ReservedOp w) : decode w = .error .rsvdOp := by
  rw [reservedOp_iff] at h
  unfold decode
  generalize (opField w).toNat = op at h ⊢
  match op, h with
  | 0, _ => rfl
  | _ + 11, _ => rfl

theorem decode_of_reservedTsel {w : Word} (h : ReservedTsel w) : decode w = .error .rsvdTsel := by
  obtain ⟨hop, htsel⟩ := (reservedTsel_iff w).1 h
  rw [← decodePermutation_of_reserved htsel]
  simp only [decode, hop]

theorem decode_of_badAmount {w : Word} (h : BadAmount w) : decode w = .error .badAmt := by
  obtain ⟨hop | hop, hamt⟩ := (badAmount_iff w).1 h
  · rw [decode_of_opLs5 hop, hamt]; rfl
  · rw [decode_of_opLs10 hop, hamt]; rfl

theorem ReadsAs.decode_of_mustBeZeroBitSet {w : Word} {i : Instr} (h : ReadsAs w i) (hz : MustBeZeroBitSet w) :
    decode w = .error .rsvdBits := by
  obtain ⟨hd, -⟩ := h
  rw [hd, (formatZero_eq_false_iff w).2 hz]; rfl

theorem ReadsAs.decode_of_not_mustBeZeroBitSet {w : Word} {i : Instr} (h : ReadsAs w i) (hz : ¬MustBeZeroBitSet w) :
    decode w = .ok i := by
  obtain ⟨hd, -⟩ := h
  rw [← formatZero_eq_false_iff, Bool.not_eq_false] at hz
  rw [hd, hz]; rfl

/-- 30_encoding.md R79: a reserved TSEL belongs to a legal OP. -/
theorem ReservedTsel.not_reservedOp {w : Word} (h : ReservedTsel w) : ¬ReservedOp w := by
  obtain ⟨hop, -⟩ := (reservedTsel_iff w).1 h
  rw [reservedOp_iff]
  omega

/-- 30_encoding.md R80: AMT belongs to a legal OP. -/
theorem BadAmount.not_reservedOp {w : Word} (h : BadAmount w) : ¬ReservedOp w := by
  obtain ⟨hop, -⟩ := (badAmount_iff w).1 h
  rw [reservedOp_iff]
  omega

/-- 30_encoding.md R79, R80: no OP has both a TSEL and an AMT. -/
theorem BadAmount.not_reservedTsel {w : Word} (h : BadAmount w) : ¬ReservedTsel w := by
  obtain ⟨hop, -⟩ := (badAmount_iff w).1 h
  rw [reservedTsel_iff]
  omega

/-- Settles O13: the decoder's answer for a word of each class, the classes being disjoint by OP. -/
theorem illegalWordsGetFirstCause : Obligations.IllegalWordsGetFirstCause := by
  intro w
  by_cases hop : ReservedOp w
  · have ht : ¬ReservedTsel w := fun h => h.not_reservedOp hop
    have ha : ¬BadAmount w := fun h => h.not_reservedOp hop
    simp [decode_of_reservedOp hop, eq_true hop, eq_false ht, eq_false ha]
  by_cases ht : ReservedTsel w
  · have ha : ¬BadAmount w := fun h => h.not_reservedTsel ht
    simp [decode_of_reservedTsel ht, eq_false hop, eq_true ht, eq_false ha]
  by_cases ha : BadAmount w
  · simp [decode_of_badAmount ha, eq_false hop, eq_false ht, eq_true ha]
  obtain ⟨i, hi⟩ := exists_readsAs hop ht ha
  by_cases hz : MustBeZeroBitSet w
  · simp [hi.decode_of_mustBeZeroBitSet hz, eq_false hop, eq_false ht, eq_false ha, hz]
  · simp [hi.decode_of_not_mustBeZeroBitSet hz, eq_false hop, eq_false ht, eq_false ha, hz]

/-! ## The legal words -/

theorem exists_decode_eq_ok_iff (w : Word) :
    (∃ i, decode w = .ok i) ↔ ¬ReservedOp w ∧ ¬ReservedTsel w ∧ ¬BadAmount w ∧ ¬MustBeZeroBitSet w := by
  obtain ⟨-, -, -, -, hlegal⟩ := illegalWordsGetFirstCause w
  exact hlegal

theorem readsAs_of_decode_eq_ok {w : Word} {i : Instr} (h : decode w = .ok i) : ReadsAs w i := by
  obtain ⟨hop, htsel, hamt, hz⟩ := (exists_decode_eq_ok_iff w).1 ⟨i, h⟩
  obtain ⟨j, hj⟩ := exists_readsAs hop htsel hamt
  have hji : j = i := Except.ok.inj ((hj.decode_of_not_mustBeZeroBitSet hz).symm.trans h)
  exact hji ▸ hj

theorem row_mem_opcodeRows (i : Instr) : i.row ∈ opcodeRows := by
  cases i <;> simp [Instr.row, opcodeRows, amountRows]

/-- The rows with an AMT condition are those of the rotations (30_encoding.md R80, R86). -/
theorem mem_amountRows_iff : ∀ r ∈ opcodeRows,
    r ∈ amountRows ↔ (opField r.pattern).toNat = 0x9 ∨ (opField r.pattern).toNat = 0xA := by decide

/-- No row has a reserved OP or TSEL (30_encoding.md R83). -/
theorem pattern_not_reserved : ∀ r ∈ opcodeRows, ¬ReservedOp r.pattern ∧ ¬ReservedTsel r.pattern := by decide

/-- Two rows whose match values agree in the bits that both masks look at are one row. -/
theorem row_eq_of_patterns_agree : ∀ r₁ ∈ opcodeRows, ∀ r₂ ∈ opcodeRows,
    r₁.pattern &&& r₂.mask = r₂.pattern &&& r₁.mask → r₁ = r₂ := by decide

theorem row_eq_of_match {w : Word} {r₁ r₂ : OpcodeRow} (h₁ : r₁ ∈ opcodeRows) (h₂ : r₂ ∈ opcodeRows)
    (hm₁ : w &&& r₁.mask = r₁.pattern) (hm₂ : w &&& r₂.mask = r₂.pattern) : r₁ = r₂ := by
  apply row_eq_of_patterns_agree r₁ h₁ r₂ h₂
  rw [← hm₁, ← hm₂, BitVec.and_assoc, BitVec.and_assoc, BitVec.and_comm r₁.mask]

/-- 30_encoding.md R86: a legal word is legal for the row of the instruction it is. -/
theorem row_legal_of_decode_eq_ok {w : Word} {i : Instr} (h : decode w = .ok i) : i.row.legal w := by
  obtain ⟨-, hsel⟩ := readsAs_of_decode_eq_ok h
  obtain ⟨-, -, hamt, hz⟩ := (exists_decode_eq_ok_iff w).1 ⟨i, h⟩
  rw [← formatZero_eq_false_iff, Bool.not_eq_false] at hz
  have hi := row_mem_opcodeRows i
  refine ⟨(and_mask_eq_pattern_iff hi w).2 ⟨hsel, hz⟩, fun hr => ?_⟩
  obtain ⟨hop, -⟩ := hsel
  rw [mem_amountRows_iff _ hi, ← hop] at hr
  exact amountLegal_of_not_badAmount hamt hr

/-- 30_encoding.md R86: a word that is legal for a row has none of the four causes. -/
theorem exists_decode_eq_ok_of_row_legal {w : Word} {r : OpcodeRow} (hr : r ∈ opcodeRows) (h : r.legal w) :
    ∃ i, decode w = .ok i := by
  obtain ⟨hmatch, hamt⟩ := h
  obtain ⟨⟨hop, -, htsel⟩, hz⟩ := (and_mask_eq_pattern_iff hr w).1 hmatch
  obtain ⟨hpop, hptsel⟩ := pattern_not_reserved r hr
  rw [reservedOp_iff] at hpop
  rw [reservedTsel_iff] at hptsel
  rw [exists_decode_eq_ok_iff, reservedOp_iff, reservedTsel_iff, badAmount_iff, ← formatZero_eq_false_iff, hz, hop]
  refine ⟨hpop, fun ⟨h8, h6⟩ => hptsel ⟨h8, ?_⟩, fun ⟨h9A, hbad⟩ => ?_, Bool.noConfusion⟩
  · rwa [← htsel h8]
  · rw [hamt ((mem_amountRows_iff r hr).2 h9A)] at hbad
    exact Bool.noConfusion hbad

/-- Settles O12: the rows are read off the decoder's case analysis, and their disjointness off their masks and matches. -/
theorem legalWordsAreTheTableRows : Obligations.LegalWordsAreTheTableRows := by
  refine ⟨fun w => ⟨?_, ?_⟩, fun w i h => ⟨row_mem_opcodeRows i, row_legal_of_decode_eq_ok h⟩,
    fun w r₁ h₁ r₂ h₂ => row_eq_of_match h₁ h₂, fun w => ?_⟩
  · rintro ⟨i, hi⟩
    exact ⟨i.row, row_mem_opcodeRows i, row_legal_of_decode_eq_ok hi⟩
  · rintro ⟨r, hr, hlegal⟩
    exact exists_decode_eq_ok_of_row_legal hr hlegal
  · cases h : decode w with
    | ok i => exact .inl ⟨i, rfl⟩
    | error cause => exact .inr ⟨cause, rfl, fun _ hc => (Except.error.inj hc).symm⟩

end Sys2Proof.Machine

/-! The commands of 40_permutation.md and the completion of every legal command: results of their own width (30_encoding.md
R84, 40_permutation.md R111), the move of each bit (R100), and IP against IPINV (R109). -/

namespace Sys2Proof.Machine

/-! ## Completion of a legal command -/

/-- 10_state.md R35: a meaning that ends in `finish` completes with its value and changes nothing but the report. -/
theorem completesWith_of_exec_eq_finish {n : Nat} {value : BitVec n} {i : Instr} {s : State}
    (h : exec i s = finish value s) : CompletesWith i s (zext32 value) := h

theorem toNat_zext32_lt {n : Nat} (hn : n ≤ 32) (value : BitVec n) : (zext32 value).toNat < 2 ^ n := by
  rw [zext32_toNat hn]
  exact value.isLt

theorem resultWidth_le_32 (i : Instr) : resultWidth i ≤ 32 := by
  cases i <;> simp [resultWidth]

/-- 30_encoding.md R80: an AMT in [1, 4] names an amount. -/
theorem exists_ofBits?_of_amountLegal {amt : BitVec 3} (h : amountLegal amt = true) :
    ∃ n, Amount.ofBits? amt = some n := by
  rwa [← Option.isSome_iff_exists, Amount.ofBits?_isSome_eq_amountLegal]

/-- 30_encoding.md R84: a legal command ends with a value of the width of its row. -/
theorem exists_exec_eq_finish {i : Instr} (s : State) (h : i.wellFormed = true) :
    ∃ value : BitVec (resultWidth i), exec i s = finish value s := by
  cases i with
  | ls5 amt din =>
    obtain ⟨n, hn⟩ := exists_ofBits?_of_amountLegal h
    exact ⟨_, exec_ls5_of_some hn⟩
  | ls10 amt din =>
    obtain ⟨n, hn⟩ := exists_ofBits?_of_amountLegal h
    exact ⟨_, exec_ls10_of_some hn⟩
  | _ => exact ⟨_, rfl⟩

/-- Settles O20: the value a legal command ends with has the width of its row, and zero-extension keeps its number. -/
theorem everyLegalCommandCompletesInWidth : Obligations.EveryLegalCommandCompletesInWidth := by
  intro i s hi
  obtain ⟨value, hvalue⟩ := exists_exec_eq_finish s hi
  exact ⟨zext32 value, completesWith_of_exec_eq_finish hvalue, toNat_zext32_lt (resultWidth_le_32 i) value⟩

/-! ## The permutation commands -/

/-- 00_scope.md R13: position p, the index p - 1, is bit W - p. -/
theorem posBit_eq_getLsbD {W : Nat} (v : BitVec W) (p : Fin W) : posBit v p = v.getLsbD (W - (p.val + 1)) := by
  rw [posBit, Nat.sub_sub, Nat.add_comm]

theorem permutedBy_iff_posBit {wIn wOut : Nat} (t : Vector (Position wIn) wOut) (x : BitVec wIn) (y : BitVec wOut) :
    PermutedBy t x y ↔ ∀ i : Fin wOut, posBit y i = posBit x t[i] := by
  simp only [PermutedBy, posBit_eq_getLsbD]

/-- 40_permutation.md R100: the engine moves each bit as the table says. -/
theorem permutedBy_permute {wIn wOut : Nat} (t : Vector (Position wIn) wOut) (x : BitVec wIn) :
    PermutedBy t x (permute t x) :=
  (permutedBy_iff_posBit t x _).2 (posBit_permute t x)

/-- A command whose meaning is the engine with the table t answers the value that t moves its operand to. -/
theorem exists_completesWith_permutedBy {wIn wOut : Nat} {t : Vector (Position wIn) wOut} {x : BitVec wIn} {i : Instr}
    {s : State} (h : exec i s = finish (permute t x) s) : ∃ y, CompletesWith i s (zext32 y) ∧ PermutedBy t x y :=
  ⟨permute t x, completesWith_of_exec_eq_finish h, permutedBy_permute t x⟩

/-- Settles O21: each of the six commands is the engine with its own table. -/
theorem permutationCommandsFollowTheirTable : Obligations.PermutationCommandsFollowTheirTable := fun _ =>
  ⟨fun _ => exists_completesWith_permutedBy rfl, fun _ => exists_completesWith_permutedBy rfl,
    fun _ => exists_completesWith_permutedBy rfl, fun _ => exists_completesWith_permutedBy rfl,
    fun _ => exists_completesWith_permutedBy rfl, fun _ => exists_completesWith_permutedBy rfl⟩

/-! ## IP and IPINV -/

/-- The engine with the table t, then with u, moves every bit back when u lists where t put each position. -/
theorem permute_permute_of_inverse {W : Nat} {t u : Vector (Position W) W} (h : ∀ j : Fin W, t[u[j]] = j)
    (x : BitVec W) : permute u (permute t x) = x :=
  eq_of_posBit fun p => by rw [posBit_permute, posBit_permute, h p]

/-- 00_scope.md R9 (c) the other way around: on finitely many positions a one-sided inverse table is two-sided. -/
theorem isInverseTable_comm {ip ipinv : Vector (Position 8) 8} (h : IsInverseTable ip ipinv) :
    IsInverseTable ipinv ip := by
  have hleft : Function.LeftInverse (fun j : Fin 8 => ip[j]) (fun j : Fin 8 => ipinv[j]) := h
  exact hleft.rightInverse_of_card_le le_rfl

/-- Settles O23: the two tables are inverse to each other on both sides. -/
theorem ipAndIpinvUndoEachOther : Obligations.IpAndIpinvUndoEachOther := by
  rintro s ⟨-, -, -, hinv, -⟩
  refine ⟨fun x => ⟨permute s.tables.IP x, rfl, ?_⟩, fun x => ⟨permute s.tables.IPINV x, rfl, ?_⟩⟩
  · exact congrArg (finish · s) (permute_permute_of_inverse hinv x)
  · exact congrArg (finish · s) (permute_permute_of_inverse (isInverseTable_comm hinv) x)

end Sys2Proof.Machine

/-! The commands of 41_key_schedule.md: the rotation of LS5 bit by bit (R130), the halves of LS10 (R133), the AMT that no
shift takes (R131, R132), and the stages of GENKEY (R134, R135). -/

namespace Sys2Proof.Machine

/-! ## The rotation within 5 bits -/

/-- 41_key_schedule.md R130: an amount is below 5. -/
theorem amount_toNat_lt_five (n : Amount) : n.toNat < 5 := by cases n <;> decide

/-- 41_key_schedule.md R130: a bit that stays within the 5 bits comes from the left shift, one that leaves them from the
right shift. -/
theorem getLsbD_rol5 (h : KeyHalf) (n : Amount) {j : Nat} (hj : j < 5) :
    (rol5 h n).getLsbD ((j + n.toNat) % 5) = h.getLsbD j := by
  have hn := amount_toNat_lt_five n
  rw [rol5, BitVec.getLsbD_or, BitVec.getLsbD_shiftLeft, BitVec.getLsbD_ushiftRight]
  by_cases hstay : j + n.toNat < 5
  · have hright : h.getLsbD (5 - n.toNat + (j + n.toNat)) = false := BitVec.getLsbD_of_ge _ _ (by omega)
    rw [Nat.mod_eq_of_lt hstay, hright]
    simp [hstay]
  · have hindex : (j + n.toNat) % 5 = j + n.toNat - 5 := by omega
    have hback : 5 - n.toNat + (j + n.toNat - 5) = j := by omega
    have hleft : j + n.toNat - 5 < n.toNat := by omega
    rw [hindex, hback]
    simp [hleft]

/-- 41_key_schedule.md R130: the moves of the five bits say the whole rotation. -/
theorem eq_rol5_of_getLsbD {h y : KeyHalf} {n : Amount}
    (hy : ∀ j, j < 5 → y.getLsbD ((j + n.toNat) % 5) = h.getLsbD j) : y = rol5 h n := by
  have hn := amount_toNat_lt_five n
  refine BitVec.eq_of_getLsbD_eq fun i hi => ?_
  have hsource : ((i + (5 - n.toNat)) % 5 + n.toNat) % 5 = i := by omega
  have hlt : (i + (5 - n.toNat)) % 5 < 5 := Nat.mod_lt _ (by decide)
  rw [← hsource, hy _ hlt, getLsbD_rol5 h n hlt]

/-- 41_key_schedule.md R131: two rotations whose amounts add up to an amount are one. -/
theorem rol5_rol5 (h : KeyHalf) {a b c : Amount} (habc : a.toNat + b.toNat = c.toNat) :
    rol5 (rol5 h a) b = rol5 h c := by
  refine eq_rol5_of_getLsbD fun j hj => ?_
  have hindex : (j + c.toNat) % 5 = ((j + a.toNat) % 5 + b.toNat) % 5 := by
    rw [Nat.mod_add_mod, Nat.add_assoc, habc]
  rw [hindex, getLsbD_rol5 _ b (Nat.mod_lt _ (by decide)), getLsbD_rol5 h a hj]

/-! ## The two halves -/

@[simp] theorem hi5_splitShift (x : BitVec 10) (n : Amount) : hi5 (splitShift x n) = rol5 (hi5 x) n :=
  hi5_append _ _

@[simp] theorem lo5_splitShift (x : BitVec 10) (n : Amount) : lo5 (splitShift x n) = rol5 (lo5 x) n :=
  lo5_append _ _

/-- 41_key_schedule.md R135: two shifts of a key whose amounts add up to an amount are one. -/
theorem splitShift_splitShift (x : BitVec 10) {a b c : Amount} (habc : a.toNat + b.toNat = c.toNat) :
    splitShift (splitShift x a) b = splitShift x c := by
  rw [splitShift, hi5_splitShift, lo5_splitShift, rol5_rol5 _ habc, rol5_rol5 _ habc, splitShift]

/-! ## The shift commands -/

/-- 30_encoding.md R80: an AMT outside [1, 4] names no amount. -/
theorem ofBits?_eq_none_of_outside {amt : BitVec 3} (h : amt.toNat = 0 ∨ 5 ≤ amt.toNat) :
    Amount.ofBits? amt = none := by
  rw [← Option.not_isSome_iff_eq_none, Amount.ofBits?_isSome_eq_amountLegal, amountLegal, decide_eq_true_iff]
  omega

/-- 41_key_schedule.md R131, 60_exceptions.md R301: LS5 with an AMT that names no amount only reports BAD_AMT. -/
theorem exec_ls5_of_none {amt : BitVec 3} {din : KeyHalf} {s : State} (h : Amount.ofBits? amt = none) :
    exec (.ls5 amt din) s = .next (s.afterIllegal 3) := by
  simp only [exec, execLs5, h]
  rfl

/-- 41_key_schedule.md R132, 60_exceptions.md R301: LS10 with an AMT that names no amount only reports BAD_AMT. -/
theorem exec_ls10_of_none {amt : BitVec 3} {din : BitVec 10} {s : State} (h : Amount.ofBits? amt = none) :
    exec (.ls10 amt din) s = .next (s.afterIllegal 3) := by
  simp only [exec, execLs10, h]
  rfl

theorem completesWith_ls5 {amt : BitVec 3} {n : Amount} (h : Amount.ofBits? amt = some n) (x : KeyHalf) (s : State) :
    CompletesWith (.ls5 amt x) s (zext32 (rol5 x n)) :=
  completesWith_of_exec_eq_finish (exec_ls5_of_some h)

theorem completesWith_ls10 {amt : BitVec 3} {n : Amount} (h : Amount.ofBits? amt = some n) (x : BitVec 10) (s : State) :
    CompletesWith (.ls10 amt x) s (zext32 (splitShift x n)) :=
  completesWith_of_exec_eq_finish (exec_ls10_of_some h)

/-- Settles O26: an AMT in [1, 4] names an amount, and the rotation by it moves each bit as stated. -/
theorem ls5RotatesWithinFiveBits : Obligations.Ls5RotatesWithinFiveBits := by
  refine fun s amt x => ⟨fun hamt => ?_, fun hamt => exec_ls5_of_none (ofBits?_eq_none_of_outside hamt)⟩
  obtain ⟨n, hn⟩ := exists_ofBits?_of_amountLegal (decide_eq_true hamt)
  refine ⟨rol5 x n, completesWith_ls5 hn x s, fun j hj => ?_⟩
  rw [← (Amount.ofBits?_eq_some_iff amt n).1 hn, getLsbD_rol5 x n hj]

/-- Settles O27: each half of the shifted key is the rotation of its own half. -/
theorem ls10RotatesEachHalfAlone : Obligations.Ls10RotatesEachHalfAlone := by
  refine fun s amt x => ⟨fun hamt => ?_, fun hamt => exec_ls10_of_none (ofBits?_eq_none_of_outside hamt)⟩
  obtain ⟨n, hn⟩ := exists_ofBits?_of_amountLegal (decide_eq_true hamt)
  refine ⟨splitShift x n, completesWith_ls10 hn x s, ?_, ?_⟩
  · rw [← hi5, ← hi5, hi5_splitShift]
    exact completesWith_ls5 hn (hi5 x) s
  · rw [← lo5, ← lo5, lo5_splitShift]
    exact completesWith_ls5 hn (lo5 x) s

/-! ## GENKEY -/

/-- Settles O29: the stages of GENKEY are the values of the unit commands, and its shifts by 1 and by 2 add up to 3. -/
theorem genkeyFollowsTheKeySchedule : Obligations.GenkeyFollowsTheKeySchedule := by
  intro s key
  let a := permute s.tables.P10 key
  let ls1 := splitShift a .one
  let ls2 := splitShift ls1 .two
  have hthree : splitShift a .three = ls2 := (splitShift_splitShift a rfl).symm
  refine ⟨a, ls1, ls2, permute s.tables.P8 ls1, permute s.tables.P8 ls2, ?p10, ?shiftOne, ?sk1, ?shiftTwo, ?shiftThree,
    ?sk2, ?genkey⟩
  case p10 => exact completesWith_of_exec_eq_finish rfl
  case shiftOne => exact completesWith_ls10 rfl a s
  case sk1 => exact completesWith_of_exec_eq_finish rfl
  case shiftTwo => exact completesWith_ls10 rfl ls1 s
  case shiftThree => exact hthree ▸ completesWith_ls10 rfl a s
  case sk2 => exact completesWith_of_exec_eq_finish rfl
  case genkey => exact completesWith_of_exec_eq_finish rfl

end Sys2Proof.Machine

/-! The substitution boxes of 42_sbox.md: the bits that select row and column (R150), and the two commands (R153, R154). -/

namespace Sys2Proof.Machine

/-- 00_scope.md R14: two bits, the first one high, as a number. -/
theorem toNat_bit_append_bit {W : Nat} (w : BitVec W) (high low : Nat) :
    (w.extractLsb' high 1 ++ w.extractLsb' low 1).toNat = 2 * (w.getLsbD high).toNat + (w.getLsbD low).toNat := by
  rw [toNat_append_eq, toNat_extractLsb'_eq, toNat_extractLsb'_eq, BitVec.getLsbD, BitVec.getLsbD, Nat.toNat_testBit,
    Nat.toNat_testBit, Nat.mul_comm, pow_one]

theorem toNat_sboxRow (nib : Nibble) : (sboxRow nib).toNat = 2 * (nib.getLsbD 3).toNat + (nib.getLsbD 0).toNat :=
  toNat_bit_append_bit nib 3 0

theorem toNat_sboxCol (nib : Nibble) : (sboxCol nib).toNat = 2 * (nib.getLsbD 2).toNat + (nib.getLsbD 1).toNat :=
  toNat_bit_append_bit nib 2 1

/-- 42_sbox.md R150: the lookup reads the grid at the row of bits 3 and 0 and the column of bits 2 and 1. -/
theorem sboxLookup_eq_getElem (box : Grid) {nib : Nibble} {row col : Fin 4}
    (hrow : row.val = 2 * (nib.getLsbD 3).toNat + (nib.getLsbD 0).toNat)
    (hcol : col.val = 2 * (nib.getLsbD 2).toNat + (nib.getLsbD 1).toNat) :
    sboxLookup box nib = box[row][col] := by
  have hr : (sboxRow nib).toFin = row := Fin.ext ((toNat_sboxRow nib).trans hrow.symm)
  have hc : (sboxCol nib).toFin = col := Fin.ext ((toNat_sboxCol nib).trans hcol.symm)
  rw [sboxLookup, hr, hc]
  rfl

/-- Settles O31: the two commands are the lookup in their own box. -/
theorem sboxReadsOuterRowInnerColumn : Obligations.SboxReadsOuterRowInnerColumn := by
  intro s nib row col hrow hcol
  rw [← sboxLookup_eq_getElem s.tables.S0 hrow hcol, ← sboxLookup_eq_getElem s.tables.S1 hrow hcol]
  exact ⟨completesWith_of_exec_eq_finish rfl, completesWith_of_exec_eq_finish rfl⟩

end Sys2Proof.Machine

/-! The round function of 43_round_function.md: FK and SW undo themselves (R172, R173), and a command that computes a
bijection answers each value on exactly one operand (R174). -/

namespace Sys2Proof.Machine

/-! ## The value of a completion -/

/-- 10_state.md R35: RESULT of the one next state is the only value a command completes with. -/
theorem CompletesWith.value_unique {i : Instr} {s : State} {v w : Word} (hv : CompletesWith i s v)
    (hw : CompletesWith i s w) : v = w := by
  injection hv.symm.trans hw with hnext
  exact congrArg (fun t : State => t.core.RESULT) hnext

/-- 30_encoding.md R84: zero-extension keeps the value a meaning ends with apart from every other of its width. -/
theorem completesWith_zext32_iff {n : Nat} (hn : n ≤ 32) {value y : BitVec n} {i : Instr} {s : State}
    (h : exec i s = finish value s) : CompletesWith i s (zext32 y) ↔ value = y := by
  have hvalue : CompletesWith i s (zext32 value) := completesWith_of_exec_eq_finish h
  exact ⟨fun hy => zext32_inj hn (hvalue.value_unique hy), fun heq => heq ▸ hvalue⟩

/-- A family of commands that computes the bijection f answers every value on exactly one operand. -/
theorem existsUnique_completesWith_of_bijective {α : Type} {n : Nat} (hn : n ≤ 32) {f : α → BitVec n} {cmd : α → Instr}
    {s : State} (hexec : ∀ x, exec (cmd x) s = finish (f x) s) (hf : f.Bijective) (y : BitVec n) :
    ∃! x, CompletesWith (cmd x) s (zext32 y) := by
  simpa only [completesWith_zext32_iff hn (hexec _)] using hf.existsUnique y

/-! ## FK and SW -/

/-- 43_round_function.md R173: the right half is kept, so the second FK XORs the same value of F into the left half. -/
theorem feistel_involutive (T : Tables) (sk : Subkey) : Function.Involutive (feistel T · sk) := by
  intro blk
  calc feistel T (feistel T blk sk) sk
      = (hi4 blk ^^^ roundF T (lo4 blk) sk ^^^ roundF T (lo4 blk) sk) ++ lo4 blk := by
        rw [feistel, hi4_feistel, lo4_feistel]
    _ = hi4 blk ++ lo4 blk := by rw [BitVec.xor_assoc, BitVec.xor_self, BitVec.xor_zero]
    _ = blk := hi4_append_lo4 blk

/-- 43_round_function.md R172: the halves swapped twice are where they were. -/
theorem switchHalves_involutive : Function.Involutive switchHalves := fun blk => by
  rw [switchHalves, switchHalves, lo4_append, hi4_append, hi4_append_lo4]

/-- Settles O33: FK and F complete with their unit functions, and FK is an involution. -/
theorem fkMixesLeftAndUndoesItself : Obligations.FkMixesLeftAndUndoesItself := by
  intro s sk blk
  refine ⟨feistel s.tables blk sk, roundF s.tables (lo4 blk) sk, ?f, ?fk, ?left, ?right, ?undo⟩
  case f => exact completesWith_of_exec_eq_finish rfl
  case fk => exact completesWith_of_exec_eq_finish rfl
  case left => exact hi4_feistel s.tables blk sk
  case right => exact lo4_feistel s.tables blk sk
  case undo => exact (completesWith_zext32_iff (by decide) rfl).2 (feistel_involutive s.tables sk blk)

/-- Settles O35: SW is an involution, and so is FK under each subkey; an involution is a bijection. -/
theorem swAndFkAreBijections : Obligations.SwAndFkAreBijections := by
  refine fun s => ⟨fun blk y hsw => ?_, ?_, fun sk => ?_⟩
  · have hy : switchHalves blk = y := (completesWith_zext32_iff (by decide) rfl).1 hsw
    exact (completesWith_zext32_iff (by decide) rfl).2 (hy ▸ switchHalves_involutive blk)
  · exact existsUnique_completesWith_of_bijective (by decide) (fun _ => rfl) switchHalves_involutive.bijective
  · exact existsUnique_completesWith_of_bijective (by decide) (fun _ => rfl) (feistel_involutive s.tables sk).bijective

end Sys2Proof.Machine

/-! The cipher core of 44_cipher_core.md: ENC by its stages (R190, R192), DEC as ENC with the subkeys swapped (R195),
the round trip (R193) and the bijection (R194). -/

namespace Sys2Proof.Machine

/-! ## The stages -/

/-- 44_cipher_core.md R190: ENC completes with what its five stages, each on the value of the one before, end with. -/
theorem completesWith_enc_of_stages {s : State} {sk1 sk2 : Subkey} {blk x₁ x₂ x₃ x₄ out : Block}
    (hip : CompletesWith (.ip blk) s (zext32 x₁)) (hround1 : CompletesWith (.fk sk1 x₁) s (zext32 x₂))
    (hsw : CompletesWith (.sw x₂) s (zext32 x₃)) (hround2 : CompletesWith (.fk sk2 x₃) s (zext32 x₄))
    (hipinv : CompletesWith (.ipinv x₄) s (zext32 out)) : CompletesWith (.enc sk1 sk2 blk) s (zext32 out) := by
  have h₁ : permute s.tables.IP blk = x₁ := (completesWith_zext32_iff (by decide) rfl).1 hip
  have h₂ : feistel s.tables x₁ sk1 = x₂ := (completesWith_zext32_iff (by decide) rfl).1 hround1
  have h₃ : switchHalves x₂ = x₃ := (completesWith_zext32_iff (by decide) rfl).1 hsw
  have h₄ : feistel s.tables x₃ sk2 = x₄ := (completesWith_zext32_iff (by decide) rfl).1 hround2
  have hout : permute s.tables.IPINV x₄ = out := (completesWith_zext32_iff (by decide) rfl).1 hipinv
  have hencrypt : encrypt s.tables blk sk1 sk2 = out := by rw [encrypt, h₁, h₂, h₃, h₄, hout]
  exact (completesWith_zext32_iff (by decide) rfl).2 hencrypt

/-! ## DEC against ENC -/

/-- 44_cipher_core.md R195: the two unit functions differ in the order of the subkeys only. -/
theorem decrypt_eq_encrypt_swapped (T : Tables) (c : Block) (a b : Subkey) : decrypt T c a b = encrypt T c b a := rfl

/-- 44_cipher_core.md R195: DEC is ENC with the subkeys swapped, in every state. -/
theorem exec_dec_eq_exec_enc (s : State) (a b : Subkey) (c : Block) : exec (.dec a b c) s = exec (.enc b a c) s :=
  congrArg (finish · s) (decrypt_eq_encrypt_swapped s.tables c a b)

theorem completesWith_dec_iff {s : State} {a b : Subkey} {c : Block} {v : Word} :
    CompletesWith (.dec a b c) s v ↔ CompletesWith (.enc b a c) s v := by
  rw [CompletesWith, exec_dec_eq_exec_enc, CompletesWith]

/-- Settles O36: ENC by its stages, and DEC as ENC with the subkeys swapped. -/
theorem cipherIsTwoRoundsWithOneSwitch : Obligations.CipherIsTwoRoundsWithOneSwitch := by
  intro s sk1 sk2 blk x₁ x₂ x₃ x₄ out hip hsw hipinv
  refine ⟨fun hround1 hround2 => ?enc, fun hround1 hround2 => ?dec⟩
  case enc => exact completesWith_enc_of_stages hip hround1 hsw hround2 hipinv
  case dec => exact completesWith_dec_iff.2 (completesWith_enc_of_stages hip hround1 hsw hround2 hipinv)

/-! ## The round trip -/

/-- 40_permutation.md R109: IPINV cancels IP. -/
theorem permute_IPINV_permute_IP {T : Tables} (h : T.WellFormed) (x : Block) :
    permute T.IPINV (permute T.IP x) = x := by
  obtain ⟨-, -, -, hinv, -⟩ := h
  exact permute_permute_of_inverse hinv x

/-- 40_permutation.md R109: IP cancels IPINV. -/
theorem permute_IP_permute_IPINV {T : Tables} (h : T.WellFormed) (x : Block) :
    permute T.IP (permute T.IPINV x) = x := by
  obtain ⟨-, -, -, hinv, -⟩ := h
  exact permute_permute_of_inverse (isInverseTable_comm hinv) x

/-- 44_cipher_core.md R193: with the subkeys swapped each stage of the second run cancels a stage of the first, from the
last one back. -/
theorem encrypt_swapped_leftInverse {T : Tables} (h : T.WellFormed) (a b : Subkey) :
    Function.LeftInverse (encrypt T · b a) (encrypt T · a b) := by
  intro p
  have hundo : ∀ (sk : Subkey) (blk : Block), feistel T (feistel T blk sk) sk = blk := feistel_involutive T
  let x := permute T.IP p
  let y := feistel T x a
  let z := switchHalves y
  calc encrypt T (encrypt T p a b) b a
      = permute T.IPINV (feistel T (switchHalves
          (feistel T (permute T.IP (permute T.IPINV (feistel T z b))) b)) a) := rfl
    _ = permute T.IPINV (feistel T (switchHalves (feistel T (feistel T z b) b)) a) := by
        rw [permute_IP_permute_IPINV h]
    _ = permute T.IPINV (feistel T (switchHalves z) a) := by rw [hundo]
    _ = permute T.IPINV (feistel T y a) := by rw [switchHalves_involutive y]
    _ = permute T.IPINV x := congrArg (permute T.IPINV) (hundo a x)
    _ = p := permute_IPINV_permute_IP h p

/-- Settles O37: the ciphertext is the value of ENC, and DEC, which is ENC with the subkeys swapped, leads it back. -/
theorem decryptUndoesEncrypt : Obligations.DecryptUndoesEncrypt := by
  refine ⟨exec_dec_eq_exec_enc, fun s hs a b p => ⟨encrypt s.tables p a b, completesWith_of_exec_eq_finish rfl, ?_⟩⟩
  have hback : encrypt s.tables (encrypt s.tables p a b) b a = p := encrypt_swapped_leftInverse hs a b p
  exact completesWith_dec_iff.2 ((completesWith_zext32_iff (by decide) rfl).2 hback)

/-! ## The bijection -/

/-- 44_cipher_core.md R194: the round trip holds for every pair of subkeys, so swapping them twice makes encryption with
the swapped subkeys an inverse on both sides. -/
theorem encrypt_bijective {T : Tables} (h : T.WellFormed) (a b : Subkey) : (encrypt T · a b).Bijective :=
  ⟨(encrypt_swapped_leftInverse h a b).injective, (encrypt_swapped_leftInverse h b a).surjective⟩

/-- Settles O38: ENC computes a bijection, so it answers each block on exactly one block. -/
theorem encryptIsBijectionPerSubkeyPair : Obligations.EncryptIsBijectionPerSubkeyPair := fun _ hs a b =>
  existsUnique_completesWith_of_bijective (by decide) (fun _ => rfl) (encrypt_bijective hs a b)

end Sys2Proof.Machine

/-! The one exception of 60_exceptions.md: the report of an illegal command (R301, R302), and what clears it (R305). -/

namespace Sys2Proof.Machine

/-! ## The report of an illegal command -/

/-- 60_exceptions.md R301: a completion whose word the decoder rejects has IllegalCommand's effect, with the code of the
decoder's cause, and no other. -/
theorem step_of_decode_eq_error {s : State} {cause : Cause} (hs : s.completing)
    (hd : decode s.core.CMDLATCH = .error cause) : step s = .next (s.pop.afterIllegal cause.code) := by
  rw [step_of_completing hs, complete_eq_runDecoded, State.pop_core, hd]
  rfl

/-- Settles O16: each class of illegal words is the decoder's one cause, and the cause's code is what is reported. -/
theorem illegalCommandHasOnlyItsReport : Obligations.IllegalCommandHasOnlyItsReport := by
  intro s hs
  obtain ⟨hop, htsel, hamt, hbits, -⟩ := illegalWordsGetFirstCause s.core.CMDLATCH
  exact ⟨fun h => step_of_decode_eq_error hs (hop.2 h), fun h => step_of_decode_eq_error hs (htsel.2 h),
    fun h => step_of_decode_eq_error hs (hamt.2 h),
    fun hz ho ht ha => step_of_decode_eq_error hs (hbits.2 ⟨hz, ho, ht, ha⟩)⟩

/-! ## What clears the report -/

/-- 60_exceptions.md R305 with 10_state.md R26: all that a step from CMD_READY = 1 can do to the registers: Issue, reset, or
nothing. -/
theorem core_of_step_of_ready {s t : State} (hready : s.cmdReady = true) (h : step s = .next t) :
    (∃ w, s.issues w ∧ t.core = s.core.issue w) ∨ (s.resets ∧ t.core = CoreState.reset) ∨
      ((¬∃ w, s.issues w) ∧ ¬s.resets ∧ t.core = s.core) := by
  obtain ⟨hrst, hbusy⟩ := s.cmdReady_iff.1 hready
  have hrun : runEvent s.nextEvent s.pop = .next t := by rw [← step_of_running ⟨wellFormed_of_step_next h, hrst⟩, h]
  have hoffer (w : Word) : (s.pop.offer w).core = s.core.issue w := by simp [State.offer_core, hready]
  obtain ⟨-, hb, -⟩ | ⟨he, -, w, hcmd, rfl⟩ | ⟨he, -, hcmd, rfl⟩ | ⟨w, he, rfl⟩ | ⟨he, rfl⟩ | ⟨he, rfl⟩ | ⟨he, rfl⟩ |
    ⟨he, rfl⟩ | ⟨level, he, rfl⟩ := runEvent_next_cases hrun
  · exact absurd (hbusy.symm.trans hb) Bool.false_ne_true
  · exact .inl ⟨w, ⟨hready, .inr ⟨he, hcmd⟩⟩, hoffer w⟩
  · have hnone : s.cmd = none := hcmd
    exact .inr (.inr (by simp [State.issues, State.resets, he, hnone, hrst]))
  · exact .inl ⟨w, ⟨hready, .inl he⟩, hoffer w⟩
  -- A withdrawn offer and the three reads.
  iterate 4
    · exact .inr (.inr (by simp [State.issues, State.resets, he, hrst]))
  · cases level with
    | true => exact .inr (.inl ⟨.inr he, by simp [State.driveRst_core]⟩)
    | false => exact .inr (.inr (by simp [State.issues, State.resets, State.driveRst_core, he, hrst]))

/-- 10_state.md R26, 70_reset_and_hazards.md R400: an illegal command's report stands only while no command is in flight
and RST is released, so the core is ready. -/
theorem State.Inv.cmdReady_of_ill {s : State} (hinv : s.Inv) (hill : s.core.ILL = true) : s.cmdReady = true := by
  refine s.cmdReady_iff.2 ⟨?_, ?_⟩
  · refine Bool.eq_false_iff.2 fun hrst => ?_
    simp [hinv.inReset hrst] at hill
  · refine Bool.eq_false_iff.2 fun hbusy => ?_
    obtain ⟨-, hclear, -⟩ := hinv.core.busyCleared hbusy
    simp [hclear] at hill

/-- Settles O43: the core is ready, and of the three things a step can then do, Issue and reset clear the report and the
third keeps every register. -/
theorem illegalReportClearedByIssueOrReset : Obligations.IllegalReportClearedByIssueOrReset := by
  intro s t hinv hill hstep
  obtain ⟨w, hissue, ht⟩ | ⟨hreset, ht⟩ | ⟨hissue, hreset, ht⟩ := core_of_step_of_ready (hinv.cmdReady_of_ill hill) hstep
  · exact ⟨fun _ => by simp [ht], fun hno => absurd ⟨w, hissue⟩ hno⟩
  · exact ⟨fun _ => by simp [ht], fun _ hno => absurd hreset hno⟩
  · exact ⟨fun h => (h.elim hissue hreset).elim, fun _ _ => by simp [ht, hill]⟩

end Sys2Proof.Machine

/-! The round trip between words and instructions (30_encoding.md R73 to R83) and the assembler (R87): the fields that
an instruction's own word has, and the only words that have them. -/

namespace Sys2Proof.Machine

/-! ## The fields of an instruction's word -/

/-- The word w has the instruction's OP and selector, zeros in the must-be-zero bits and the instruction's operands in
their fields (30_encoding.md R73 to R80). No word but `encode i` does (`encode_eq_iff_hasFields`). -/
def HasFields (w : Word) : Instr → Prop
  | .genkey key => (opField w).toNat = 0x1 ∧ zeroBits w 27 10 = true ∧ low10 w = key
  | .enc sk1 sk2 blk => (opField w).toNat = 0x2 ∧ zeroBits w 27 24 = true ∧
      sk1Field w = sk1 ∧ skField w = sk2 ∧ low8 w = blk
  | .dec sk1 sk2 blk => (opField w).toNat = 0x3 ∧ zeroBits w 27 24 = true ∧
      sk1Field w = sk1 ∧ skField w = sk2 ∧ low8 w = blk
  | .fk sk blk => (opField w).toNat = 0x4 ∧ zeroBits w 27 16 = true ∧ skField w = sk ∧ low8 w = blk
  | .sw blk => (opField w).toNat = 0x5 ∧ zeroBits w 27 8 = true ∧ low8 w = blk
  | .f sk nib => (opField w).toNat = 0x6 ∧ (zeroBits w 27 16 = true ∧ zeroBits w 7 4 = true) ∧
      skField w = sk ∧ low4 w = nib
  | .sbox0 nib => (opField w).toNat = 0x7 ∧ (boxField w).toNat = 0 ∧ zeroBits w 27 5 = true ∧ low4 w = nib
  | .sbox1 nib => (opField w).toNat = 0x7 ∧ (boxField w).toNat = 1 ∧ zeroBits w 27 5 = true ∧ low4 w = nib
  | .p10 din => (opField w).toNat = 0x8 ∧ (tselField w).toNat = 0 ∧ zeroBits w 24 10 = true ∧ low10 w = din
  | .p8 din => (opField w).toNat = 0x8 ∧ (tselField w).toNat = 1 ∧ zeroBits w 24 10 = true ∧ low10 w = din
  | .p4 din => (opField w).toNat = 0x8 ∧ (tselField w).toNat = 2 ∧ zeroBits w 24 4 = true ∧ low4 w = din
  | .ep din => (opField w).toNat = 0x8 ∧ (tselField w).toNat = 3 ∧ zeroBits w 24 4 = true ∧ low4 w = din
  | .ip din => (opField w).toNat = 0x8 ∧ (tselField w).toNat = 4 ∧ zeroBits w 24 8 = true ∧ low8 w = din
  | .ipinv din => (opField w).toNat = 0x8 ∧ (tselField w).toNat = 5 ∧ zeroBits w 24 8 = true ∧ low8 w = din
  | .ls5 amt din => (opField w).toNat = 0x9 ∧ amtField w = amt ∧ zeroBits w 24 5 = true ∧ low5 w = din
  | .ls10 amt din => (opField w).toNat = 0xA ∧ amtField w = amt ∧ zeroBits w 24 10 = true ∧ low10 w = din

/-- 30_encoding.md R73 to R80: the number of an instruction's word, for all sixteen rows. -/
theorem encode_toNat (i : Instr) : (encode i).toNat = Laws.encodeNumber i := by
  cases i with
  | genkey key => exact encode_genkey_toNat key
  | enc a b x => exact encode_enc_toNat a b x
  | dec a b x => exact encode_dec_toNat a b x
  | fk sk x => exact encode_fk_toNat sk x
  | sw x => exact encode_sw_toNat x
  | f sk nib => exact encode_f_toNat sk nib
  | sbox0 nib => exact encode_sbox0_toNat nib
  | sbox1 nib => exact encode_sbox1_toNat nib
  | p10 x => exact encode_p10_toNat x
  | p8 x => exact encode_p8_toNat x
  | p4 x => exact encode_p4_toNat x
  | ep x => exact encode_ep_toNat x
  | ip x => exact encode_ip_toNat x
  | ipinv x => exact encode_ipinv_toNat x
  | ls5 amt x => exact encode_ls5_toNat amt x
  | ls10 amt x => exact encode_ls10_toNat amt x

/-- The fields and the operands cut the word's number into digits, and a number is determined by its digits. -/
theorem encode_eq_iff_hasFields (w : Word) (i : Instr) : encode i = w ↔ HasFields w i := by
  rw [BitVec.toNat_eq, encode_toNat]
  have hw := w.isLt
  cases i <;>
    simp only [Laws.encodeNumber, HasFields, BitVec.toNat_eq, opField_toNat, tselField_toNat, amtField_toNat,
      boxField_toNat, sk1Field_toNat, skField_toNat, low10_toNat, low8_toNat, low5_toNat, low4_toNat, zeroBits_iff] <;>
    omega

theorem encode_hasFields (i : Instr) : HasFields (encode i) i := (encode_eq_iff_hasFields _ i).1 rfl

/-! ## The round trip -/

theorem requireZero_eq_ok_iff {zero : Bool} {i j : Instr} : requireZero zero i = .ok j ↔ zero = true ∧ i = j := by
  cases zero <;> simp [requireZero]

/-- 30_encoding.md R78: BOX = 0 is SBOX0. -/
theorem boxField_eq_zero_iff_toNat (w : Word) : boxField w = 0 ↔ (boxField w).toNat = 0 := BitVec.toNat_eq

/-- The decoder reads an instruction from the fields that it has, and only a rotation's AMT can be wrong
(30_encoding.md R83). -/
theorem decode_of_hasFields {w : Word} {i : Instr} (h : HasFields w i) :
    decode w = if i.wellFormed then .ok i else .error .badAmt := by
  cases i with
  | genkey | enc | dec | fk | sw | f =>
    obtain ⟨hop, hzero, hoperands⟩ := h
    simp [decode, hop, requireZero, hzero, hoperands, Instr.wellFormed]
  | sbox0 | sbox1 =>
    obtain ⟨hop, hbox, hzero, hnib⟩ := h
    simp only [decode, hop, decodeSbox, boxField_eq_zero_iff_toNat, hbox, hzero, hnib]
    rfl
  | p10 | p8 | p4 | ep | ip | ipinv =>
    obtain ⟨hop, htsel, hzero, hdin⟩ := h
    simp only [decode, hop, decodePermutation, htsel, hzero, hdin]
    rfl
  | ls5 =>
    obtain ⟨hop, hamt, hzero, hdin⟩ := h
    rw [decode_of_opLs5 hop, hamt, hzero, hdin]
    rfl
  | ls10 =>
    obtain ⟨hop, hamt, hzero, hdin⟩ := h
    rw [decode_of_opLs10 hop, hamt, hzero, hdin]
    rfl

/-- Settles O10: the word of an instruction has the instruction's fields, and the decoder reads them. -/
theorem decodeOfEncodeIsIdentity : Obligations.DecodeOfEncodeIsIdentity :=
  fun i => decode_of_hasFields (encode_hasFields i)

/-- 30_encoding.md R78: either box, with all fields accounted for. -/
theorem hasFields_of_decodeSbox {w : Word} {i : Instr} (hop : (opField w).toNat = 0x7) (h : decodeSbox w = .ok i) :
    i.wellFormed = true ∧ HasFields w i := by
  obtain ⟨hzero, rfl⟩ := requireZero_eq_ok_iff.1 h
  rcases BitVec.eq_zero_or_eq_one (boxField w) with hbox | hbox
  · simp [Instr.wellFormed, HasFields, hop, hbox, hzero]
  · simp [Instr.wellFormed, HasFields, hop, hbox, hzero]

/-- 30_encoding.md R79: each of the six tables, with all fields accounted for. -/
theorem hasFields_of_decodePermutation {w : Word} {i : Instr} (hop : (opField w).toNat = 0x8)
    (h : decodePermutation w = .ok i) : i.wellFormed = true ∧ HasFields w i := by
  unfold decodePermutation at h
  split at h
  case h_7 => exact nomatch h
  all_goals
    obtain ⟨hzero, rfl⟩ := requireZero_eq_ok_iff.1 h
    exact ⟨rfl, hop, ‹_›, hzero, rfl⟩

/-- An instruction read from a word is well-formed and its fields are the word's. -/
theorem hasFields_of_decode_eq_ok {w : Word} {i : Instr} (h : decode w = .ok i) :
    i.wellFormed = true ∧ HasFields w i := by
  unfold decode at h
  split at h
  case h_6 hop =>
    obtain ⟨hzero, rfl⟩ := requireZero_eq_ok_iff.1 h
    exact ⟨rfl, hop, Bool.and_eq_true_iff.1 hzero, rfl, rfl⟩
  case h_7 hop => exact hasFields_of_decodeSbox hop h
  case h_8 hop => exact hasFields_of_decodePermutation hop h
  case h_9 hop | h_10 hop =>
    split at h
    case isTrue hamt =>
      obtain ⟨hzero, rfl⟩ := requireZero_eq_ok_iff.1 h
      exact ⟨hamt, hop, rfl, hzero, rfl⟩
    case isFalse => exact nomatch h
  case h_11 => exact nomatch h
  all_goals
    obtain ⟨hzero, rfl⟩ := requireZero_eq_ok_iff.1 h
    simp [Instr.wellFormed, HasFields, *]

/-- Settles O11: the word has the fields of the instruction read from it, and only that instruction's own word has. -/
theorem encodeOfDecodeIsIdentity : Obligations.EncodeOfDecodeIsIdentity := by
  intro w i h
  obtain ⟨hwf, hfields⟩ := hasFields_of_decode_eq_ok h
  exact ⟨hwf, (encode_eq_iff_hasFields w i).2 hfields⟩

theorem wellFormed_of_decode_eq_ok {w : Word} {i : Instr} (h : decode w = .ok i) : i.wellFormed = true :=
  (hasFields_of_decode_eq_ok h).1

/-- A word that a well-formed instruction encodes to is read as that instruction. -/
theorem decode_eq_ok_of_encode_eq {w : Word} {i : Instr} (hw : encode i = w) (hi : i.wellFormed = true) :
    decode w = .ok i := by
  rw [← hw, decodeOfEncodeIsIdentity, if_pos hi]

/-- Settles O9: each written word is the word of its instruction. -/
theorem writtenWordsDecode : Obligations.WrittenWordsDecode :=
  ⟨decode_eq_ok_of_encode_eq rfl rfl, decode_eq_ok_of_encode_eq rfl rfl, decode_eq_ok_of_encode_eq rfl rfl,
    decode_eq_ok_of_encode_eq rfl rfl, decode_eq_ok_of_encode_eq rfl rfl, decode_eq_ok_of_encode_eq rfl rfl,
    decode_eq_ok_of_encode_eq rfl rfl, decode_eq_ok_of_encode_eq rfl rfl, decode_eq_ok_of_encode_eq rfl rfl⟩

/-! ## The assembler -/

/-- 30_encoding.md R87: a value below the field's bound is the field's number. -/
theorem fits_of_lt {n v : Nat} (hv : v < 2 ^ n) : ∃ a : BitVec n, fits n v = some a ∧ a.toNat = v :=
  ⟨_, if_pos hv, (BitVec.toNat_ofNat v n).trans (Nat.mod_eq_of_lt hv)⟩

theorem fits_of_not_lt {n v : Nat} (hv : ¬v < 2 ^ n) : fits n v = none := if_neg hv

theorem encode_eq_ofNat (i : Instr) : encode i = BitVec.ofNat 32 (Laws.encodeNumber i) := by
  rw [← encode_toNat, BitVec.ofNat_toNat, BitVec.setWidth_eq]

/-- A form with one operand, whose field's value is a term of the instruction's number. -/
theorem assembled_one {n : Nat} {cmd : BitVec n → Instr} {number : Nat → Nat}
    (hnumber : ∀ a, Laws.encodeNumber (cmd a) = number a.toNat) (v : Nat) :
    ((fits n v).map cmd).map encode = if v < 2 ^ n then some (BitVec.ofNat 32 (number v)) else none := by
  by_cases hv : v < 2 ^ n
  · obtain ⟨a, ha, rfl⟩ := fits_of_lt hv
    rw [ha, if_pos hv, ← hnumber, ← encode_eq_ofNat]
    rfl
  · rw [fits_of_not_lt hv, if_neg hv]
    rfl

/-- A form with two operands: the first must fit, and then it is a form of the second. -/
theorem assembled_two {m n : Nat} {cmd : BitVec m → BitVec n → Instr} {number : Nat → Nat → Nat}
    (hnumber : ∀ a b, Laws.encodeNumber (cmd a b) = number a.toNat b.toNat) (u v : Nat) :
    ((fits m u).bind fun a => (fits n v).map (cmd a)).map encode =
      if u < 2 ^ m ∧ v < 2 ^ n then some (BitVec.ofNat 32 (number u v)) else none := by
  by_cases hu : u < 2 ^ m
  · obtain ⟨a, ha, rfl⟩ := fits_of_lt hu
    simpa [ha, hu] using assembled_one (hnumber a) v
  · simp [fits_of_not_lt hu, hu]

/-- A form with three operands: the first must fit, and then it is a form of the other two. -/
theorem assembled_three {l m n : Nat} {cmd : BitVec l → BitVec m → BitVec n → Instr} {number : Nat → Nat → Nat → Nat}
    (hnumber : ∀ a b c, Laws.encodeNumber (cmd a b c) = number a.toNat b.toNat c.toNat) (t u v : Nat) :
    ((fits l t).bind fun a => (fits m u).bind fun b => (fits n v).map (cmd a b)).map encode =
      if t < 2 ^ l ∧ u < 2 ^ m ∧ v < 2 ^ n then some (BitVec.ofNat 32 (number t u v)) else none := by
  by_cases ht : t < 2 ^ l
  · obtain ⟨a, ha, rfl⟩ := fits_of_lt ht
    simpa [ha, ht] using assembled_two (hnumber a) u v
  · simp [fits_of_not_lt ht, ht]

/-- Settles O49: each of the sixteen forms by its number of operands. -/
theorem assemblerNeverTruncates : Obligations.AssemblerNeverTruncates :=
  ⟨assembled_one fun _ => rfl, assembled_three fun _ _ _ => rfl, assembled_three fun _ _ _ => rfl,
    assembled_two fun _ _ => rfl, assembled_one fun _ => rfl, assembled_two fun _ _ => rfl,
    assembled_one fun _ => rfl, assembled_one fun _ => rfl, assembled_one fun _ => rfl, assembled_one fun _ => rfl,
    assembled_one fun _ => rfl, assembled_one fun _ => rfl, assembled_one fun _ => rfl, assembled_one fun _ => rfl,
    assembled_two fun _ _ => rfl, assembled_two fun _ _ => rfl⟩

end Sys2Proof.Machine

/-! What a step changes and what it keeps (10_state.md section 3): the one list of what can happen to the registers, and
from it the invariant, the only writers of each register and reset. -/

namespace Sys2Proof.Machine

/-! ## The registers after Complete -/

@[simp] theorem CoreState.completeWith_CMDLATCH (out : ExecOutcome) (c : CoreState) :
    (c.completeWith out).CMDLATCH = c.CMDLATCH := by cases out <;> rfl

@[simp] theorem CoreState.completeWith_BUSY (out : ExecOutcome) (c : CoreState) :
    (c.completeWith out).BUSY = false := by cases out <;> rfl

@[simp] theorem CoreState.completeWith_VALID (out : ExecOutcome) (c : CoreState) :
    (c.completeWith out).VALID = true := by cases out <;> rfl

/-- 10_state.md R35: Complete writes the whole report, so one outcome written twice is written once. -/
@[simp] theorem CoreState.completeWith_completeWith (out : ExecOutcome) (c : CoreState) :
    (c.completeWith out).completeWith out = c.completeWith out := by cases out <;> rfl

@[simp] theorem State.withOutcome_core (out : ExecOutcome) (s : State) :
    (s.withOutcome out).core = s.core.completeWith out := rfl
@[simp] theorem State.withOutcome_tables (out : ExecOutcome) (s : State) : (s.withOutcome out).tables = s.tables := rfl
@[simp] theorem State.withOutcome_rst (out : ExecOutcome) (s : State) : (s.withOutcome out).rst = s.rst := rfl
@[simp] theorem State.withOutcome_cmd (out : ExecOutcome) (s : State) : (s.withOutcome out).cmd = s.cmd := rfl
@[simp] theorem State.withOutcome_sched (out : ExecOutcome) (s : State) : (s.withOutcome out).sched = s.sched := rfl
@[simp] theorem State.withOutcome_reads (out : ExecOutcome) (s : State) : (s.withOutcome out).reads = s.reads := rfl

/-! ## The event of a step -/

theorem State.nextEvent_of_sched {s : State} {e : Event} {rest : List Event} (h : s.sched = e :: rest) :
    s.nextEvent = e := by
  rw [State.nextEvent, h]; rfl

theorem State.nextEvent_of_empty {s : State} (h : s.sched = []) : s.nextEvent = .core := by
  rw [State.nextEvent, h]; rfl

/-! ## What a step does to the rest of the state -/

/-- No event writes the tables or the schedule, and only the RST input moves the pin. -/
theorem runEvent_frame {e : Event} {s t : State} (h : runEvent e s = .next t) :
    t.tables = s.tables ∧ t.sched = s.sched ∧ (t.rst = s.rst ∨ e = .rst t.rst) := by
  obtain ⟨-, -, hc⟩ | ⟨-, -, w, -, rfl⟩ | ⟨-, -, -, rfl⟩ | ⟨w, -, rfl⟩ | ⟨-, rfl⟩ | ⟨-, rfl⟩ | ⟨-, rfl⟩ | ⟨-, rfl⟩ |
    ⟨level, rfl, rfl⟩ := runEvent_next_cases h
  · rw [complete_eq_referenceExec] at hc
    obtain rfl := Host.Outcome.next.inj hc
    simp
  all_goals simp

/-- 10_state.md R37: no step writes the tables. -/
theorem tables_of_step {s t : State} (h : step s = .next t) : t.tables = s.tables := by
  obtain ⟨-, hrun⟩ := step_next_inv h
  obtain ⟨htables, -, -⟩ := runEvent_frame hrun
  simpa using htables

theorem sched_of_step {s t : State} (h : step s = .next t) : t.sched = s.sched.tail := by
  obtain ⟨-, hrun⟩ := step_next_inv h
  obtain ⟨-, hsched, -⟩ := runEvent_frame hrun
  simpa using hsched

/-- 70_reset_and_hazards.md R400: RST is 1 after a step only if it was or was driven to 1. -/
theorem resets_of_step {s t : State} (h : step s = .next t) (hrst : t.rst = true) : s.resets := by
  obtain ⟨-, hrun⟩ := step_next_inv h
  obtain ⟨-, -, hkept | hdriven⟩ := runEvent_frame hrun
  · exact .inl (by simpa [hrst] using hkept.symm)
  · exact .inr (hrst ▸ hdriven)

/-! ## What a step does to the registers -/

/-- 70_reset_and_hazards.md R400: while RST = 1 no event gets the registers off their reset values. -/
theorem core_of_step_of_rst {s t : State} (hrst : s.rst = true) (h : step s = .next t) : t.core = CoreState.reset := by
  obtain ⟨-, hrun⟩ := step_next_inv h
  have hcore : s.pop.holdReset.core = CoreState.reset := by rw [State.holdReset_of_rst (s := s.pop) hrst]
  have hready : s.pop.holdReset.cmdReady = false := by simp [State.cmdReady, hrst]
  obtain ⟨-, hb, -⟩ | ⟨-, -, w, -, rfl⟩ | ⟨-, -, -, rfl⟩ | ⟨w, -, rfl⟩ | ⟨-, rfl⟩ | ⟨-, rfl⟩ | ⟨-, rfl⟩ | ⟨-, rfl⟩ |
    ⟨level, -, rfl⟩ := runEvent_next_cases hrun
  · simp [hcore] at hb
  all_goals simp [State.offer_core, State.driveRst_core, hready, hcore]

/-- 10_state.md R26, R35, 70_reset_and_hazards.md R400: all that a step can do to the registers: Issue, Complete,
reset, or nothing. -/
theorem core_of_step {s t : State} (h : step s = .next t) :
    (∃ w, s.issues w ∧ t.core = s.core.issue w) ∨
      (s.completing ∧ t.core = s.core.completeWith (referenceExec s.tables s.core.CMDLATCH)) ∨
      (s.resets ∧ t.core = CoreState.reset) ∨ t.core = s.core := by
  by_cases hrst : s.rst = true
  · exact .inr (.inr (.inl ⟨.inl hrst, core_of_step_of_rst hrst h⟩))
  rw [Bool.not_eq_true] at hrst
  have hrunning : s.running := ⟨wellFormed_of_step_next h, hrst⟩
  rw [step_of_running hrunning] at h
  have hoffer (w : Word) : (s.pop.offer w).core = if s.cmdReady then s.core.issue w else s.core :=
    State.offer_core w s.pop
  obtain ⟨he, hbusy, hc⟩ | ⟨he, hbusy, w, hcmd, rfl⟩ | ⟨-, -, -, rfl⟩ | ⟨w, he, rfl⟩ | ⟨-, rfl⟩ | ⟨-, rfl⟩ | ⟨-, rfl⟩ |
    ⟨-, rfl⟩ | ⟨level, he, rfl⟩ := runEvent_next_cases h
  · rw [complete_eq_referenceExec] at hc
    obtain rfl := Host.Outcome.next.inj hc
    exact .inr (.inl ⟨⟨hrunning, hbusy, he⟩, rfl⟩)
  · have hready : s.cmdReady = true := s.cmdReady_iff.2 ⟨hrst, hbusy⟩
    exact .inl ⟨w, ⟨hready, .inr ⟨he, hcmd⟩⟩, by rw [hoffer, if_pos hready]⟩
  · exact .inr (.inr (.inr rfl))
  · by_cases hready : s.cmdReady = true
    · exact .inl ⟨w, ⟨hready, .inl he⟩, by rw [hoffer, if_pos hready]⟩
    · exact .inr (.inr (.inr (by rw [hoffer, if_neg hready])))
  -- A withdrawn offer and the three reads.
  iterate 4
    · exact .inr (.inr (.inr rfl))
  · cases level with
    | true => exact .inr (.inr (.inl ⟨.inr he, by simp [State.driveRst_core]⟩))
    | false => exact .inr (.inr (.inr (by simp [State.driveRst_core, hrst])))

/-- 70_reset_and_hazards.md R400: reset takes its values at the very step at which RST is driven to 1, too. -/
theorem core_of_step_of_resets {s t : State} (hresets : s.resets) (h : step s = .next t) :
    t.core = CoreState.reset := by
  obtain hrst | he := hresets
  · exact core_of_step_of_rst hrst h
  · rw [step_of_wellFormed (wellFormed_of_step_next h), he] at h
    obtain rfl := Host.Outcome.next.inj h
    simp [State.driveRst_core]

/-! ## The invariant -/

theorem CoreState.inv_reset (T : Tables) : CoreState.reset.Inv T where
  busyCleared h := nomatch h
  neverIssued _ _ := rfl
  report h := nomatch h
  width := by decide

/-- 10_state.md R26: Issue clears VALID and the report. -/
theorem CoreState.Inv.issue {T : Tables} {c : CoreState} (h : c.Inv T) (w : Word) : (c.issue w).Inv T where
  busyCleared _ := ⟨rfl, rfl, rfl⟩
  neverIssued hb := nomatch hb
  report hv := nomatch hv
  width := h.width

theorem resultWidth_le_16 (i : Instr) : resultWidth i ≤ 16 := by
  cases i <;> simp [resultWidth]

/-- 30_encoding.md R84: no command of the table has a result of more than 16 bits, and an illegal one has the
result 0. -/
theorem RESULT_completeWith_referenceExec_lt (s : State) :
    (s.core.completeWith (referenceExec s.tables s.core.CMDLATCH)).RESULT.toNat < 2 ^ 16 := by
  have hcomplete := complete_eq_referenceExec s
  rw [complete_eq_runDecoded] at hcomplete
  cases hd : decode s.core.CMDLATCH with
  | error cause =>
    rw [hd, runDecoded_error] at hcomplete
    rw [← State.withOutcome_core, ← Host.Outcome.next.inj hcomplete]
    exact Nat.two_pow_pos 16
  | ok i =>
    obtain ⟨value, hvalue⟩ := exists_exec_eq_finish s (wellFormed_of_decode_eq_ok hd)
    rw [hd] at hcomplete
    rw [← State.withOutcome_core, ← Host.Outcome.next.inj (hvalue.symm.trans hcomplete)]
    exact (toNat_zext32_lt (resultWidth_le_32 i) value).trans_le
      (Nat.pow_le_pow_right (by decide) (resultWidth_le_16 i))

/-- 10_state.md R30, R35: Complete leaves Exec's outcome on CMDLATCH, which it does not change. -/
theorem CoreState.inv_completeWith (s : State) :
    (s.core.completeWith (referenceExec s.tables s.core.CMDLATCH)).Inv s.tables where
  busyCleared hb := by simp at hb
  neverIssued _ hv := by simp at hv
  report _ := by simp
  width := RESULT_completeWith_referenceExec_lt s

/-- Settles O40: the default tables are well-formed, and reset values meet the invariant of any tables. -/
theorem invariantHoldsAtReset : Obligations.InvariantHoldsAtReset where
  tables := by decide
  core := CoreState.inv_reset _
  inReset _ := rfl

/-- Settles O41: Issue, Complete and reset each leave registers that meet the invariant, and a step does nothing else to
them. -/
theorem everyStepKeepsTheInvariant : Obligations.EveryStepKeepsTheInvariant := by
  intro s t hinv hstep
  refine ⟨tables_of_step hstep ▸ hinv.tables, ?core,
    fun hrst => core_of_step_of_resets (resets_of_step hstep hrst) hstep⟩
  rw [tables_of_step hstep]
  obtain ⟨w, -, ht⟩ | ⟨-, ht⟩ | ⟨-, ht⟩ | ht := core_of_step hstep <;> rw [ht]
  · exact hinv.core.issue w
  · exact CoreState.inv_completeWith s
  · exact CoreState.inv_reset _
  · exact hinv.core

/-! ## The only writers -/

/-- Settles O42: of the four things a step can do to the registers, Issue writes no RESULT, Complete no CMDLATCH, Issue
leaves BUSY = 1, Complete and reset leave BUSY = 0. -/
theorem registersHaveTheirOnlyWriters : Obligations.RegistersHaveTheirOnlyWriters := by
  intro s t hstep
  refine ⟨tables_of_step hstep, ?_⟩
  obtain ⟨w, hissue, ht⟩ | ⟨hcompleting, ht⟩ | ⟨hreset, ht⟩ | ht := core_of_step hstep <;> rw [ht]
  · exact ⟨by simp, fun _ => .inl hissue, fun _ _ => hissue, by simp⟩
  · exact ⟨fun _ => .inl hcompleting, by simp, by simp, fun _ _ => .inl hcompleting⟩
  · exact ⟨fun _ => .inr hreset, fun _ => .inr hreset, by simp, fun _ _ => .inr hreset⟩
  · simp +contextual

/-- Settles O6: a step that leaves BUSY = 1 is no Complete and no reset, and while BUSY = 1 it is no Issue; the CMD port
completes nothing and resets nothing. -/
theorem wordInFlightStaysLatched : Obligations.WordInFlightStaysLatched := by
  intro s hrunning hbusy
  refine ⟨fun t hstep hbusy' => ?_, fun w he => ?_⟩
  · obtain ⟨w, ⟨hready, -⟩, -⟩ | ⟨-, ht⟩ | ⟨-, ht⟩ | ht := core_of_step hstep
    · simp [State.cmdReady, hbusy] at hready
    · simp [ht] at hbusy'
    · simp [ht] at hbusy'
    · rw [ht]
  · rw [step_of_running hrunning]
    obtain he | he := he <;> rw [he]
    · exact ⟨_, rfl, by simp [State.offer_core, State.cmdReady, hbusy]⟩
    · exact ⟨_, rfl, rfl⟩

/-! ## Reset -/

/-- 70_reset_and_hazards.md R400: the step at which RST is asserted, and each that drives it while it is 1. -/
theorem step_of_driven_rst {s : State} {level : Bool} (hw : s.tables.WellFormed) (he : s.nextEvent = .rst level)
    (h : level = true ∨ s.rst = true) :
    step s = .next { s with core := CoreState.reset, rst := level, sched := s.sched.tail } := by
  have hdriven : (level || s.pop.holdReset.rst) = true := by simpa using h
  rw [step_of_wellFormed hw, he, runEvent, State.driveRst, if_pos hdriven]
  simp [State.pop]

/-- Settles O2: the driven pin, and the rule that no event gets the registers off their reset values while RST = 1. -/
theorem resetTakesResetValuesInAnyState : Obligations.ResetTakesResetValuesInAnyState := by
  refine fun s hw => ⟨fun level rest hsched h => ?_, fun hrst => ⟨by simp [State.cmdReady, hrst], fun t hstep => ?_⟩⟩
  · rw [step_of_driven_rst hw (State.nextEvent_of_sched hsched) h, hsched, List.tail_cons]
  · exact ⟨core_of_step_of_rst hrst hstep, tables_of_step hstep⟩

/-! ## Refusals -/

/-- 10_state.md R24: the core's turn answers a next state, whichever of its cases it takes. -/
theorem coreTurn_answers_next (s : State) : ∃ t, coreTurn s = .next t := by
  unfold coreTurn acceptHeld
  split
  · exact complete_answers_next s
  · split <;> exact ⟨_, rfl⟩

/-- 60_exceptions.md R306: every event but a partial-width access answers a next state. -/
theorem runEvent_answers_next {e : Event} (hread : ∀ r width, e ≠ .partialRead r width)
    (hwrite : ∀ width, e ≠ .partialWrite width) (s : State) : ∃ t, runEvent e s = .next t := by
  cases e with
  | core => exact coreTurn_answers_next s
  | partialRead r width => exact absurd rfl (hread r width)
  | partialWrite width => exact absurd rfl (hwrite width)
  | _ => exact ⟨_, rfl⟩

/-- Settles O39: the check of the tables comes first, then the event, which is refused only for its width. -/
theorem stepStopsOnlyWhereSpecRefuses : Obligations.StepStopsOnlyWhereSpecRefuses := by
  refine fun s => ⟨fun hill => if_neg hill, fun hw hpartial => ?_, fun hw hread hwrite => ?_⟩
  · rw [step_of_wellFormed hw]
    obtain ⟨r, width, he⟩ | ⟨width, he⟩ := hpartial <;> rw [he] <;> rfl
  · rw [step_of_wellFormed hw]
    exact runEvent_answers_next hread hwrite _

/-! ## Reads -/

/-- The invariant already gives the registers their reset values while RST = 1, so a step is just its event. -/
theorem step_of_inv {s : State} (hinv : s.Inv) : step s = runEvent s.nextEvent s.pop := by
  by_cases hrst : s.rst = true
  · have hkept : s.pop.holdReset = s.pop := by
      rw [State.holdReset_of_rst (s := s.pop) hrst, ← hinv.inReset hrst]
      rfl
    rw [step_of_wellFormed hinv.tables, hkept]
  · exact step_of_running ⟨hinv.tables, Bool.eq_false_iff.2 hrst⟩

/-- Settles O7: each read is one event on a state of the invariant. -/
theorem readsReturnCurrentValuesOnly : Obligations.ReadsReturnCurrentValuesOnly := by
  intro s hinv
  rw [step_of_inv hinv]
  refine ⟨fun he => by rw [he]; rfl, fun he => by rw [he]; rfl, fun he => ?_⟩
  have hready : s.pop.cmdReady = if s.rst then false else !s.core.BUSY := by
    rw [State.cmdReady_pop, State.cmdReady]
    cases s.rst <;> rfl
  rw [he, ← hready]
  rfl

end Sys2Proof.Machine

/-! Runs of a released machine (70_reset_and_hazards.md sections 3 to 5): one rule per event, and from them the
completion of a command, a write while the core is busy, the host programs and the end of a run. -/

namespace Sys2Proof.Machine

/-! ## One rule per event -/

section

variable {s : State} {w : Word} (hrunning : s.running)

include hrunning

/-- 10_state.md R35: the core's turn with a command in flight. -/
theorem step_of_core_busy (hbusy : s.core.BUSY = true) (he : s.nextEvent = .core) :
    step s = .next (s.pop.withOutcome (referenceExec s.tables s.core.CMDLATCH)) :=
  completeAgreesWithExec s ⟨hrunning, hbusy, he⟩

/-- 10_state.md R26: the core's turn with a held offer. -/
theorem step_of_core_held (hbusy : s.core.BUSY = false) (hcmd : s.cmd = some w) (he : s.nextEvent = .core) :
    step s = .next (s.pop.accept w) := by
  have hready : s.pop.cmdReady = true := s.cmdReady_iff.2 ⟨hrunning.2, hbusy⟩
  rw [step_of_running hrunning, he, ← State.offer_of_ready w hready]
  simp [runEvent, coreTurn, acceptHeld, hbusy, hcmd]

/-- 60_exceptions.md R334: the core's turn with nothing to do. -/
theorem step_of_core_idle (hbusy : s.core.BUSY = false) (hcmd : s.cmd = none) (he : s.nextEvent = .core) :
    step s = .next s.pop := by
  rw [step_of_running hrunning, he]
  simp [runEvent, coreTurn, acceptHeld, hbusy, hcmd]

/-- 10_state.md R26: a write to a ready core. -/
theorem step_of_write_idle (hbusy : s.core.BUSY = false) (he : s.nextEvent = .write w) :
    step s = .next (s.pop.accept w) := by
  have hready : s.pop.cmdReady = true := s.cmdReady_iff.2 ⟨hrunning.2, hbusy⟩
  rw [step_of_running hrunning, he, ← State.offer_of_ready w hready]
  rfl

/-- 10_state.md R26: a write while a command is in flight (log 6). -/
theorem step_of_write_busy (hbusy : s.core.BUSY = true) (he : s.nextEvent = .write w) :
    step s = .next { s.pop with cmd := some w } := by
  have hready : s.pop.cmdReady = false := by simp [State.cmdReady, hbusy]
  rw [step_of_running hrunning, he, ← State.offer_of_not_ready w hready]
  rfl

/-- 70_reset_and_hazards.md R412: the host drops its write. -/
theorem step_of_withdraw (he : s.nextEvent = .withdraw) : step s = .next s.pop.withdraw := by
  rw [step_of_running hrunning, he]; rfl

/-- 10_state.md R36: a read of RESULT. -/
theorem step_of_readResult (he : s.nextEvent = .readResult) : step s = .next s.pop.hostReadResult := by
  rw [step_of_running hrunning, he]; rfl

/-- 10_state.md R36: a read of STATUS. -/
theorem step_of_readStatus (he : s.nextEvent = .readStatus) : step s = .next s.pop.hostReadStatus := by
  rw [step_of_running hrunning, he]; rfl

/-- 10_state.md R36: a read of CMD_READY. -/
theorem step_of_readReady (he : s.nextEvent = .readReady) : step s = .next s.pop.hostReadReady := by
  rw [step_of_running hrunning, he]; rfl

end

/-- A run that starts with a step to t and goes on to u. -/
theorem run_of_step {s t u : State} {k : Nat} (hstep : step s = .next t)
    (hrun : Host.Core.run Sys2Proof.core k t = .next u) : Host.Core.run Sys2Proof.core (k + 1) s = .next u :=
  (run_succ_of_next hstep k).trans hrun

/-- Two runs, one after the other. -/
theorem run_append {s t u : State} {m n : Nat} (hm : Host.Core.run Sys2Proof.core m s = .next t)
    (hn : Host.Core.run Sys2Proof.core n t = .next u) : Host.Core.run Sys2Proof.core (m + n) s = .next u := by
  induction m generalizing s with
  | zero =>
    obtain rfl := Host.Outcome.next.inj hm
    rwa [Nat.zero_add]
  | succ m ih =>
    obtain ⟨v, hstep, hv⟩ := run_succ_next_inv hm
    rw [Nat.succ_add]
    exact run_of_step hstep (ih hv)

/-! ## Single completions -/

/-- Settles O14: the step is Complete, which dispatches on the decoder's answer. -/
theorem stepRunsDecodedInstruction : Obligations.StepRunsDecodedInstruction := by
  intro s i hs hd
  rw [step_of_completing hs, complete_eq_runDecoded, State.pop_core, hd]
  rfl

/-- Settles O15: the issued word is in flight at the core's turn, and it decodes to the instruction it encodes. -/
theorem issuedWordRunsItsInstruction : Obligations.IssuedWordRunsItsInstruction := by
  intro s i rest hi hrunning hbusy hsched
  refine ⟨s.pop.accept (encode i), step_of_write_idle hrunning hbusy (State.nextEvent_of_sched hsched), ?_, rfl,
    by simp [hsched]⟩
  have hcore : (s.pop.accept (encode i)).nextEvent = .core := by simp [State.nextEvent, hsched]
  exact stepRunsDecodedInstruction _ i ⟨hrunning, rfl, hcore⟩ (decode_eq_ok_of_encode_eq rfl hi)

/-- Settles O17: a decoded instruction is well-formed, so it ends with a value; a cause ends in its report. -/
theorem completionWithoutErrorMeansLegalWord : Obligations.CompletionWithoutErrorMeansLegalWord := by
  intro s hs
  cases hd : decode s.core.CMDLATCH with
  | ok i =>
    obtain ⟨value, hvalue⟩ := exists_exec_eq_finish s.pop (wellFormed_of_decode_eq_ok hd)
    exact ⟨_, (stepRunsDecodedInstruction s i hs hd).trans hvalue, by simp [State.withoutError], by simp⟩
  | error cause => exact ⟨_, step_of_decode_eq_error hs hd, by simp [State.withoutError], by simp⟩

theorem CoreState.completeWith_congr {out : ExecOutcome} {c₁ c₂ : CoreState} (h : c₁.CMDLATCH = c₂.CMDLATCH) :
    c₁.completeWith out = c₂.completeWith out := by
  cases out <;> simp [CoreState.completeWith, CoreState.completeOk, CoreState.completeIllegal, h]

/-- Settles O19: both completions write Exec's outcome on the same tables and word, and Complete leaves no register but
CMDLATCH as it was. -/
theorem outcomeDependsOnWordAndTablesOnly : Obligations.OutcomeDependsOnWordAndTablesOnly := by
  intro s₁ s₂ h₁ h₂ htables hword
  refine ⟨_, _, completeAgreesWithExec s₁ h₁, completeAgreesWithExec s₂ h₂, ?_⟩
  simp only [htables, hword]
  exact CoreState.completeWith_congr hword

/-! ## Writes and reset while a command is in flight -/

/-- Settles O4: a write to a ready core, a write to a busy one, and a completion, which leaves the offer alone. -/
theorem issueAcceptsOfferedWord : Obligations.IssueAcceptsOfferedWord := by
  refine fun s w hrunning => ⟨fun hbusy he => step_of_write_idle hrunning hbusy he,
    fun hbusy he => ⟨by simp [State.cmdReady, hbusy], step_of_write_busy hrunning hbusy he⟩, fun hbusy hcmd he => ?_⟩
  exact ⟨_, step_of_core_busy hrunning hbusy he, by simp, hcmd⟩

/-- Settles O3: two steps of reset, then a turn of the core that finds nothing to do. -/
theorem resetAbandonsCommandInFlight : Obligations.ResetAbandonsCommandInFlight := by
  rintro ⟨c, T, rst, cmd, sched, reads⟩ rest ⟨htables, -⟩ - hcmd rfl
  exact run_of_step (step_of_driven_rst (level := true) htables rfl (.inl rfl)) <|
    run_of_step (step_of_driven_rst (level := false) htables rfl (.inr rfl)) <|
    run_of_step (step_of_core_idle ⟨htables, rfl⟩ rfl hcmd rfl) rfl

/-- Settles O5: a held offer is taken at the core's turn, so a held write goes through Complete, Issue and Complete, and
a dropped one leaves a turn of the core with nothing to do. -/
theorem writeWhileBusyIsHeldOrLost : Obligations.WriteWhileBusyIsHeldOrLost := by
  refine ⟨fun s w hrunning hbusy hcmd he => step_of_core_held hrunning hbusy hcmd he, ?_⟩
  rintro ⟨c, T, rst, cmd, sched, reads⟩ w rest hrunning hbusy
  refine ⟨?held, ?dropped⟩
  case held =>
    rintro rfl
    have hrun := run_of_step (step_of_write_busy hrunning hbusy rfl) <|
      run_of_step (step_of_core_busy hrunning hbusy rfl) <|
      run_of_step (step_of_core_held hrunning (CoreState.completeWith_BUSY _ _) rfl rfl) <|
      run_of_step (step_of_core_busy hrunning rfl rfl) (run_zero _)
    exact ⟨_, hrun, by simp, by simp, by simp⟩
  case dropped =>
    rintro rfl
    have hrun := run_of_step (step_of_write_busy hrunning hbusy rfl) <|
      run_of_step (step_of_withdraw hrunning rfl) <|
      run_of_step (step_of_core_busy hrunning hbusy rfl) <|
      run_of_step (step_of_core_idle hrunning (CoreState.completeWith_BUSY _ _) rfl rfl) <|
      run_of_step (step_of_readResult hrunning rfl) (run_zero _)
    exact ⟨_, hrun, by simp, by simp [CoreState.completed]⟩

/-! ## An accepted command completes -/

/-- 70_reset_and_hazards.md R410: while a command is in flight an event that is neither the core's turn nor one that
disturbs leaves the command in flight and one event fewer scheduled. -/
theorem step_of_busy_undisturbed {s : State} (hrunning : s.running) (hbusy : s.core.BUSY = true)
    (hcore : s.nextEvent ≠ .core) (hdisturbs : s.nextEvent.disturbs = false) :
    ∃ t, step s = .next t ∧ t.running ∧ t.core = s.core ∧ t.tables = s.tables ∧ t.sched = s.sched.tail := by
  obtain ⟨htables, hrst⟩ := hrunning
  have hresets : ¬s.resets := by
    rintro (h | h)
    · simp [hrst] at h
    · simp [h, Event.disturbs] at hdisturbs
  obtain ⟨-, -, hnext⟩ := stepStopsOnlyWhereSpecRefuses s
  obtain ⟨t, hstep⟩ := hnext htables
    (fun r width he => by simp [he, Event.disturbs] at hdisturbs)
    (fun width he => by simp [he, Event.disturbs] at hdisturbs)
  have hrst' : t.rst = false := Bool.eq_false_iff.2 fun h => hresets (resets_of_step hstep h)
  refine ⟨t, hstep, ⟨tables_of_step hstep ▸ htables, hrst'⟩, ?_, tables_of_step hstep, sched_of_step hstep⟩
  obtain ⟨w, ⟨hready, -⟩, -⟩ | ⟨⟨-, -, he⟩, -⟩ | ⟨h, -⟩ | ht := core_of_step hstep
  · simp [State.cmdReady, hbusy] at hready
  · exact absurd he hcore
  · exact absurd h hresets
  · exact ht

/-- 10_state.md R35: the core's turn ends the command in flight at once. -/
theorem completes_of_core {s : State} (hrunning : s.running) (hbusy : s.core.BUSY = true) (he : s.nextEvent = .core) :
    ∃ n t, n ≤ s.sched.length + 1 ∧ Host.Core.run Sys2Proof.core n s = .next t ∧
      t.core = s.core.completeWith (referenceExec s.tables s.core.CMDLATCH) :=
  ⟨1, _, Nat.le_add_left _ _, run_of_step (step_of_core_busy hrunning hbusy he) (run_zero _), rfl⟩

/-- Settles O44: by induction on the schedule; the core's turn comes in it or after it. -/
theorem acceptedCommandCompletes : Obligations.AcceptedCommandCompletes := by
  intro s hrunning hbusy hdisturbs
  induction hsched : s.sched generalizing s with
  | nil =>
    rw [← hsched]
    exact completes_of_core hrunning hbusy (State.nextEvent_of_empty hsched)
  | cons e rest ih =>
    have he : s.nextEvent = e := State.nextEvent_of_sched hsched
    by_cases hcore : e = .core
    · rw [← hsched]
      exact completes_of_core hrunning hbusy (he.trans hcore)
    rw [hsched, List.forall_mem_cons] at hdisturbs
    obtain ⟨hhead, hrest⟩ := hdisturbs
    obtain ⟨u, hstep, hurunning, hucore, hutables, husched⟩ :=
      step_of_busy_undisturbed hrunning hbusy (he ▸ hcore) (he ▸ hhead)
    rw [hsched, List.tail_cons] at husched
    obtain ⟨n, t, hn, hrun, ht⟩ := ih u hurunning (hucore ▸ hbusy) (husched ▸ hrest) husched
    exact ⟨n + 1, t, Nat.succ_le_succ hn, run_of_step hstep hrun, by rw [ht, hucore, hutables]⟩

/-! ## Host programs -/

@[simp] theorem CoreState.completeWith_completed (out : ExecOutcome) (c : CoreState) :
    (c.completeWith out).completed = true := by simp [CoreState.completed]

/-- 10_state.md R35, R38: Complete writes all that STATUS and RESULT show. -/
theorem CoreState.status_completeWith (out : ExecOutcome) (c : CoreState) :
    (c.completeWith out).status = (CoreState.reset.completeWith out).status := by cases out <;> rfl

theorem CoreState.RESULT_completeWith (out : ExecOutcome) (c : CoreState) :
    (c.completeWith out).RESULT = (CoreState.reset.completeWith out).RESULT := by cases out <;> rfl

@[simp] theorem filter_observed_readsAfter (T : Tables) (w : Word) :
    (readsAfter T w).filter HostRead.observed = readsAfter T w := rfl

/-- The state s after it has issued and completed the word w, with `sched` still scheduled and `more` read. -/
def State.afterWord (s : State) (w : Word) (sched : List Event) (more : List HostRead) : State :=
  { s with
    core := (s.core.issue w).completeWith (referenceExec s.tables w)
    sched := sched
    reads := s.reads ++ more }

/-- 10_state.md R36, 70_reset_and_hazards.md R417: any one read, and what it adds to the record while a command is in
flight. -/
theorem step_of_isRead {s : State} (hrunning : s.running) (hbusy : s.core.BUSY = true)
    (hread : s.nextEvent.isRead = true) :
    ∃ r, r.observed = false ∧ step s = .next { s with sched := s.sched.tail, reads := s.reads ++ [r] } := by
  have hcompleted : s.core.completed = false := by simp [CoreState.completed, hbusy]
  cases he : s.nextEvent with
  | readResult => exact ⟨.result _ _, hcompleted, step_of_readResult hrunning he⟩
  | readStatus => exact ⟨.status _ _, hcompleted, step_of_readStatus hrunning he⟩
  | readReady => exact ⟨.ready _, rfl, step_of_readReady hrunning he⟩
  | _ => simp [he, Event.isRead] at hread

/-- 70_reset_and_hazards.md R417: polls while a command is in flight add one read each, none of them observed. -/
theorem run_of_polls {polls rest : List Event} {s : State} (hrunning : s.running) (hbusy : s.core.BUSY = true)
    (hpolls : ∀ e ∈ polls, e.isRead = true) (hsched : s.sched = polls ++ rest) :
    ∃ more, more.length = polls.length ∧ more.filter HostRead.observed = [] ∧
      Host.Core.run Sys2Proof.core polls.length s = .next { s with sched := rest, reads := s.reads ++ more } := by
  induction polls generalizing s with
  | nil =>
    obtain rfl : s.sched = rest := hsched
    exact ⟨[], rfl, rfl, by simp⟩
  | cons e polls ih =>
    rw [List.forall_mem_cons] at hpolls
    obtain ⟨hhead, hpolls⟩ := hpolls
    have he : s.nextEvent = e := State.nextEvent_of_sched hsched
    obtain ⟨r, hr, hstep⟩ := step_of_isRead hrunning hbusy (he ▸ hhead)
    obtain ⟨more, hlength, hmore, hrun⟩ :=
      ih (s := { s with sched := s.sched.tail, reads := s.reads ++ [r] }) hrunning hbusy hpolls (by simp [hsched])
    refine ⟨r :: more, by simp [hlength], by simp [hr, hmore], run_of_step hstep ?_⟩
    simpa using hrun

/-- 70_reset_and_hazards.md R413: the host issues a word and polls while it is in flight, and the core completes it. -/
theorem run_of_issue {polls rest : List Event} {s : State} {w : Word} (hrunning : s.running)
    (hbusy : s.core.BUSY = false) (hcmd : s.cmd = none) (hpolls : ∀ e ∈ polls, e.isRead = true)
    (hsched : s.sched = .write w :: polls ++ .core :: rest) :
    ∃ more, more.length = polls.length ∧ more.filter HostRead.observed = [] ∧
      Host.Core.run Sys2Proof.core (polls.length + 2) s = .next (s.afterWord w rest more) := by
  obtain ⟨c, T, rst, cmd, sched, reads⟩ := s
  obtain rfl : cmd = none := hcmd
  obtain rfl : sched = .write w :: polls ++ .core :: rest := hsched
  have hissue := step_of_write_idle hrunning hbusy rfl
  obtain ⟨more, hlength, hmore, hrun⟩ :=
    run_of_polls (s := State.accept w ⟨c, T, rst, none, polls ++ .core :: rest, reads⟩) hrunning rfl hpolls rfl
  exact ⟨more, hlength, hmore, run_of_step hissue
    (run_append hrun (run_of_step (step_of_core_busy hrunning rfl rfl) (run_zero _)))⟩

/-- 70_reset_and_hazards.md R417: the host reads STATUS and RESULT after a completion. -/
theorem run_of_report {s : State} {w : Word} {rest : List Event} {more : List HostRead} (hrunning : s.running) :
    Host.Core.run Sys2Proof.core 2 (s.afterWord w (.readStatus :: .readResult :: rest) more) =
      .next (s.afterWord w rest (more ++ readsAfter s.tables w)) := by
  refine run_of_step (step_of_readStatus hrunning rfl) (run_of_step (step_of_readResult hrunning rfl) ?_)
  simp [State.afterWord, readsAfter, State.hostReadStatus, State.hostReadResult, State.pop,
    CoreState.status_completeWith _ (s.core.issue w), CoreState.RESULT_completeWith _ (s.core.issue w)]

/-- 70_reset_and_hazards.md R413: one word of `hostProgram`, and its reads. -/
theorem run_of_hostProgram_cons {s : State} {w : Word} {ws : List Word} (hrunning : s.running)
    (hbusy : s.core.BUSY = false) (hcmd : s.cmd = none) (hsched : s.sched = hostProgram (w :: ws)) :
    Host.Core.run Sys2Proof.core 4 s = .next (s.afterWord w (hostProgram ws) (readsAfter s.tables w)) := by
  obtain ⟨more, hlength, -, hrun⟩ := run_of_issue (polls := []) hrunning hbusy hcmd (by simp) hsched
  obtain rfl := List.length_eq_zero_iff.1 hlength
  exact run_append hrun (run_of_report hrunning)

/-- 70_reset_and_hazards.md R413: one word of `pollingProgram`, and what is observed of its reads. -/
theorem run_of_pollingProgram_cons {s : State} {w : Word} {polls : List Event} {ps : List (Word × List Event)}
    (hrunning : s.running) (hbusy : s.core.BUSY = false) (hcmd : s.cmd = none) (hpolls : ∀ e ∈ polls, e.isRead = true)
    (hsched : s.sched = pollingProgram ((w, polls) :: ps)) :
    ∃ more, more.filter HostRead.observed = readsAfter s.tables w ∧
      Host.Core.run Sys2Proof.core (polls.length + 5) s = .next (s.afterWord w (pollingProgram ps) more) := by
  obtain ⟨more, -, hmore, hrun⟩ := run_of_issue hrunning hbusy hcmd hpolls hsched
  let rest := Event.readStatus :: .readResult :: pollingProgram ps
  let ready := HostRead.ready (s.afterWord w rest more).cmdReady
  have hready : step (s.afterWord w (.readReady :: rest) more) = .next (s.afterWord w rest (more ++ [ready])) := by
    refine (step_of_readReady (s := s.afterWord w (.readReady :: rest) more) hrunning rfl).trans ?_
    simp [State.afterWord, State.hostReadReady, State.pop, ready, State.cmdReady]
  refine ⟨more ++ [ready] ++ readsAfter s.tables w, ?_,
    run_append (m := polls.length + 2) (n := 3) hrun (run_of_step hready (run_of_report hrunning))⟩
  rw [List.filter_append, List.filter_append, hmore, filter_observed_readsAfter]
  rfl

/-- An idle machine with nothing offered and nothing scheduled has ended. -/
theorem ended_of_idle {s : State} (hbusy : s.core.BUSY = false) (hcmd : s.cmd = none) (hsched : s.sched = []) :
    s.ended := by
  simp [State.ended, hbusy, hcmd, hsched, issuesNoMore]

/-- 70_reset_and_hazards.md R417: every read of `hostProgram` follows a completion. -/
theorem filter_observed_flatMap_readsAfter (T : Tables) (ws : List Word) :
    (ws.flatMap (readsAfter T)).filter HostRead.observed = ws.flatMap (readsAfter T) := by
  induction ws with
  | nil => rfl
  | cons w ws ih => rw [List.flatMap_cons, List.filter_append, filter_observed_readsAfter, ih]

/-- The run of `hostProgram`, by induction on the words, each word leaving the machine idle again. -/
theorem run_of_hostProgram {ws : List Word} {s : State} (hrunning : s.running) (hbusy : s.core.BUSY = false)
    (hcmd : s.cmd = none) (hsched : s.sched = hostProgram ws) :
    ∃ t, Host.Core.run Sys2Proof.core (4 * ws.length) s = .next t ∧ t.sched = [] ∧ t.ended ∧
      t.reads = s.reads ++ ws.flatMap (readsAfter s.tables) := by
  induction ws generalizing s with
  | nil => exact ⟨s, rfl, hsched, ended_of_idle hbusy hcmd hsched, by simp⟩
  | cons w ws ih =>
    have hword := run_of_hostProgram_cons hrunning hbusy hcmd hsched
    obtain ⟨t, hrun, hempty, hended, hreads⟩ := ih (s := s.afterWord w (hostProgram ws) (readsAfter s.tables w))
      hrunning (CoreState.completeWith_BUSY _ _) hcmd rfl
    refine ⟨t, ?_, hempty, hended, ?_⟩
    · rw [List.length_cons, Nat.mul_succ, Nat.add_comm]
      exact run_append hword hrun
    · rw [hreads, List.flatMap_cons, ← List.append_assoc]
      rfl

/-- Settles O45: the reads of the run, all of which are observed. -/
theorem hostProgramObservesEveryOutcome : Obligations.HostProgramObservesEveryOutcome := by
  intro ws s hrunning hbusy hcmd hsched
  obtain ⟨t, hrun, hempty, hended, hreads⟩ := run_of_hostProgram hrunning hbusy hcmd hsched
  exact ⟨t, hrun, hempty, hended, hreads,
    (observation_append hreads).trans (by rw [filter_observed_flatMap_readsAfter])⟩

/-- Settles O46: by induction on the words, each of which adds its own report to the observation. -/
theorem pollsAreNotObserved : Obligations.PollsAreNotObserved := by
  intro ps s hrunning hbusy hcmd hpolls hsched
  induction ps generalizing s with
  | nil => exact ⟨s, by rw [hsched]; rfl, ended_of_idle hbusy hcmd hsched, by simp⟩
  | cons p ps ih =>
    obtain ⟨w, polls⟩ := p
    rw [List.forall_mem_cons] at hpolls
    obtain ⟨hhead, hpolls⟩ := hpolls
    obtain ⟨more, hmore, hword⟩ := run_of_pollingProgram_cons hrunning hbusy hcmd hhead hsched
    obtain ⟨t, hrun, hended, hobservation⟩ := ih (s.afterWord w (pollingProgram ps) more) hrunning
      (CoreState.completeWith_BUSY _ _) hcmd hpolls rfl
    refine ⟨t, ?_, hended, ?_⟩
    · have hlength : s.sched.length = (polls.length + 5) + (pollingProgram ps).length := by
        simp [hsched, pollingProgram]
        omega
      rw [hlength]
      exact run_append hword hrun
    · have hadded : (s.afterWord w (pollingProgram ps) more).observation = s.observation ++ readsAfter s.tables w :=
        (observation_append rfl).trans (by rw [hmore])
      rw [hobservation, hadded, List.flatMap_cons, ← List.append_assoc]
      rfl

/-! ## The end of a run -/

/-- 70_reset_and_hazards.md R417: an ended machine stays so, whatever happens to it. -/
theorem ended_of_step {s t : State} (hended : s.ended) (hstep : step s = .next t) : t.ended := by
  obtain ⟨hbusy, hnone⟩ := hended
  obtain ⟨hrefused, -⟩ | ⟨u, hu, -, -, ⟨-, hsome⟩ | ⟨hidle, hsame⟩⟩ :=
    idle_step_cases (wellFormed_of_step_next hstep) hbusy
  · exact nomatch hrefused.symm.trans hstep
  · exact nomatch hsome.symm.trans hnone
  · obtain rfl := Host.Outcome.next.inj (hu.symm.trans hstep)
    exact ⟨hidle, hsame.trans hnone⟩

theorem ended_of_run {n : Nat} {s t : State} (hended : s.ended) (hrun : Host.Core.run Sys2Proof.core n s = .next t) :
    t.ended := by
  induction n generalizing s with
  | zero => exact Host.Outcome.next.inj hrun ▸ hended
  | succ n ih =>
    obtain ⟨u, hstep, hrun⟩ := run_succ_next_inv hrun
    exact ih (ended_of_step hended hstep) hrun

/-- Nothing scheduled and a command left to issue: an offer that the core takes at its next turn. -/
theorem exists_busy_step_of_empty {s : State} (hw : s.tables.WellFormed) (hbusy : s.core.BUSY = false)
    (hsome : issuesNoMore s.rst s.cmd.isSome s.sched = false) (hsched : s.sched = []) :
    ∃ t, step s = .next t ∧ t.core.BUSY = true := by
  rw [hsched] at hsome
  obtain ⟨hrst, hoffered⟩ : s.rst = false ∧ s.cmd.isSome = true := by simpa [issuesNoMore] using hsome
  obtain ⟨w, hcmd⟩ := Option.isSome_iff_exists.1 hoffered
  exact ⟨_, step_of_core_held ⟨hw, hrst⟩ hbusy hcmd (State.nextEvent_of_empty hsched), rfl⟩

/-- A command left to issue is issued within the schedule and one step. -/
theorem exists_busy_run {s : State} (hw : s.tables.WellFormed) (hbusy : s.core.BUSY = false)
    (hsome : issuesNoMore s.rst s.cmd.isSome s.sched = false) :
    ∃ n t, Host.Core.run Sys2Proof.core n s = .next t ∧ t.core.BUSY = true := by
  induction hsched : s.sched generalizing s with
  | nil =>
    obtain ⟨t, hstep, ht⟩ := exists_busy_step_of_empty hw hbusy hsome hsched
    exact ⟨1, t, run_of_step hstep (run_zero t), ht⟩
  | cons e rest ih =>
    obtain ⟨-, hnone⟩ | ⟨u, hstep, htables, hrest, ⟨hissued, -⟩ | ⟨hidle, hsame⟩⟩ := idle_step_cases hw hbusy
    · exact nomatch hsome.symm.trans hnone
    · exact ⟨1, u, run_of_step hstep (run_zero u), hissued⟩
    · rw [hsched, List.tail_cons] at hrest
      obtain ⟨n, t, hrun, ht⟩ := ih (htables ▸ hw) hidle (hsame.trans hsome) hrest
      exact ⟨n + 1, t, run_of_step hstep hrun, ht⟩

/-- Settles O47: an ended machine stays ended, and one that has not ended is busy or comes to be. -/
theorem endedMeansNothingInFlightAnyMore : Obligations.EndedMeansNothingInFlightAnyMore := by
  refine fun s hw => ⟨fun hended n t hrun => (ended_of_run hended hrun).1, fun hidle => ?_⟩
  have hbusy : s.core.BUSY = false := hidle 0 s (run_zero s)
  refine ⟨hbusy, by_contra fun hleft => ?_⟩
  obtain ⟨n, t, hrun, ht⟩ := exists_busy_run hw hbusy (Bool.eq_false_iff.2 hleft)
  exact nomatch (hidle n t hrun).symm.trans ht

end Sys2Proof.Machine

/-! The unit commands over all operands: permutations of a well-formed record (00_scope.md R9), the default tables
(40_permutation.md R101, R108), rotations that add up (41_key_schedule.md R131), the key from its subkeys (R136), and
the stages of F and SW (43_round_function.md R170, R172). -/

namespace Sys2Proof.Machine

/-! ## The bijective tables -/

/-- 40_permutation.md R100: the engine's output keeps every input bit whose position the table lists. -/
theorem posBit_eq_of_permute_eq {wIn wOut : Nat} {t : Vector (Position wIn) wOut} {x y : BitVec wIn}
    (h : permute t x = permute t y) {p : Position wIn} (hp : p ∈ t.toList) : posBit x p = posBit y p := by
  obtain ⟨i, hi, rfl⟩ := Vector.getElem_of_mem (Vector.mem_toList_iff.1 hp)
  have hbit (v : BitVec wIn) : posBit (permute t v) ⟨i, hi⟩ = posBit v t[i] := posBit_permute t v ⟨i, hi⟩
  rw [← hbit x, h, hbit y]

/-- A table that lists every position loses no bit of the input. -/
theorem permute_injective_of_listsEachOnce {W n : Nat} {t : Vector (Position W) n} (h : ListsEachOnce t) :
    (permute t).Injective := fun _ _ hxy =>
  eq_of_posBit fun p => posBit_eq_of_permute_eq hxy (List.count_pos_iff.1 (by rw [h p]; exact Nat.one_pos))

/-- On the finitely many values of one width, losing nothing is reaching everything. -/
theorem permute_bijective_of_listsEachOnce {W : Nat} {t : Vector (Position W) W} (h : ListsEachOnce t) :
    (permute t).Bijective :=
  Finite.injective_iff_bijective.1 (permute_injective_of_listsEachOnce h)

/-- Settles O24: each of the three commands is the engine with a table that lists every position once. -/
theorem bijectiveTablesGiveBijectiveCommands : Obligations.BijectiveTablesGiveBijectiveCommands := by
  rintro s ⟨hP10, hP4, hIP, -, -⟩
  exact ⟨existsUnique_completesWith_of_bijective (by decide) (fun _ => rfl) (permute_bijective_of_listsEachOnce hP10),
    existsUnique_completesWith_of_bijective (by decide) (fun _ => rfl) (permute_bijective_of_listsEachOnce hP4),
    existsUnique_completesWith_of_bijective (by decide) (fun _ => rfl) (permute_bijective_of_listsEachOnce hIP)⟩

/-! ## The default tables -/

/-- Settles O22: the entries are computed from the record. -/
theorem defaultTablesAreTheStandardOnes : Obligations.DefaultTablesAreTheStandardOnes := by
  unfold Obligations.DefaultTablesAreTheStandardOnes
  decide

/-- 40_permutation.md R108: the wires of the default EP. -/
theorem ep_wires {x : BitVec 4} {y : BitVec 8} (h : PermutedBy Config.tables.EP x y) :
    y.getLsbD 7 = x.getLsbD 0 ∧ y.getLsbD 1 = x.getLsbD 0 ∧ y.getLsbD 6 = x.getLsbD 3 ∧ y.getLsbD 0 = x.getLsbD 3 ∧
      y.getLsbD 5 = x.getLsbD 2 ∧ y.getLsbD 3 = x.getLsbD 2 ∧ y.getLsbD 4 = x.getLsbD 1 ∧ y.getLsbD 2 = x.getLsbD 1 :=
  ⟨h 0, h 6, h 1, h 7, h 2, h 4, h 3, h 5⟩

/-- Settles O25: EP moves the bits as its table says, and 0x01 has the two copies of one bit differ. -/
theorem expansionDuplicatesEveryPosition : Obligations.ExpansionDuplicatesEveryPosition := by
  intro s hs
  refine ⟨fun x => ⟨permute s.tables.EP x, completesWith_of_exec_eq_finish rfl, ?_⟩, fun x hx => ?_⟩
  · exact ep_wires (hs ▸ permutedBy_permute s.tables.EP x)
  · have hy : permute s.tables.EP x = 1 := (completesWith_zext32_iff (y := (1 : BitVec 8)) (by decide) rfl).1 hx
    obtain ⟨-, -, h6, h0, -⟩ := ep_wires (x := x) (y := 1) (hy ▸ hs ▸ permutedBy_permute s.tables.EP x)
    exact absurd (h6.trans h0.symm) (by decide)

/-! ## Rotations that add up -/

/-- 41_key_schedule.md R131: two AMTs whose sum is below 5 name amounts that add up, and the sum of the AMTs does not
wrap. -/
theorem exists_amounts_add {a b : BitVec 3} (ha : 1 ≤ a.toNat) (hb : 1 ≤ b.toNat) (hab : a.toNat + b.toNat < 5) :
    ∃ m n k, Amount.ofBits? a = some m ∧ Amount.ofBits? b = some n ∧ Amount.ofBits? (a + b) = some k ∧
      m.toNat + n.toNat = k.toNat := by
  have hsum : (a + b).toNat = a.toNat + b.toNat := by
    rw [BitVec.toNat_add, Nat.mod_eq_of_lt (by omega)]
  obtain ⟨m, hm⟩ := exists_ofBits?_of_amountLegal (amt := a) (decide_eq_true (by omega))
  obtain ⟨n, hn⟩ := exists_ofBits?_of_amountLegal (amt := b) (decide_eq_true (by omega))
  obtain ⟨k, hk⟩ := exists_ofBits?_of_amountLegal (amt := a + b) (decide_eq_true (by omega))
  refine ⟨m, n, k, hm, hn, hk, ?_⟩
  rw [(Amount.ofBits?_eq_some_iff _ _).1 hm, (Amount.ofBits?_eq_some_iff _ _).1 hn,
    (Amount.ofBits?_eq_some_iff _ _).1 hk, hsum]

/-- Settles O28: the amounts add up, and so do the rotations by them. -/
theorem rotationsAddUp : Obligations.RotationsAddUp := by
  intro s a b ha hb hab
  obtain ⟨m, n, k, hm, hn, hk, hadd⟩ := exists_amounts_add ha hb hab
  refine ⟨fun x => ⟨rol5 x m, rol5 (rol5 x m) n, completesWith_ls5 hm x s, completesWith_ls5 hn _ s, ?_⟩,
    fun x => ⟨splitShift x m, splitShift (splitShift x m) n, completesWith_ls10 hm x s, completesWith_ls10 hn _ s, ?_⟩⟩
  · rw [rol5_rol5 x hadd]
    exact completesWith_ls5 hk x s
  · rw [splitShift_splitShift x hadd]
    exact completesWith_ls10 hk x s

/-! ## The key from its subkeys -/

theorem rol5_injective (n : Amount) : Function.Injective (rol5 · n) := by
  intro x y hxy
  have hrol : rol5 x n = rol5 y n := hxy
  exact BitVec.eq_of_getLsbD_eq fun j hj => by rw [← getLsbD_rol5 x n hj, hrol, getLsbD_rol5 y n hj]

theorem hi5_append_lo5 (x : BitVec 10) : hi5 x ++ lo5 x = x := by
  rw [hi5, lo5, BitVec.extractLsb'_append_extractLsb'_eq_extractLsb' (by rfl)]
  exact BitVec.extractLsb'_eq_self

theorem splitShift_injective (n : Amount) : Function.Injective (splitShift · n) := by
  intro x y hxy
  have hhigh : hi5 x = hi5 y := rol5_injective n (by simpa using congrArg hi5 hxy)
  have hlow : lo5 x = lo5 y := rol5_injective n (by simpa using congrArg lo5 hxy)
  rw [← hi5_append_lo5 x, hhigh, hlow, hi5_append_lo5]

/-- 41_key_schedule.md R132, R133: a bit of the high half moves within the high half. -/
theorem getLsbD_splitShift_high (x : BitVec 10) (n : Amount) {j : Nat} (hj : j < 5) :
    (splitShift x n).getLsbD (5 + (j + n.toNat) % 5) = x.getLsbD (5 + j) := by
  have hhigh (v : BitVec 10) {i : Nat} (hi : i < 5) : v.getLsbD (5 + i) = (hi5 v).getLsbD i := by
    simp [hi5, hi]
  rw [hhigh _ (Nat.mod_lt _ (by decide)), hhigh _ hj, hi5_splitShift, getLsbD_rol5 _ n hj]

/-- 41_key_schedule.md R136: P8 of a key state drops its two highest bits only, and P8 of the state shifted by 2 more
has them. -/
theorem eq_of_P8_eq_of_P8_shifted_eq {x y : BitVec 10} (h : permute Config.tables.P8 x = permute Config.tables.P8 y)
    (hshifted : permute Config.tables.P8 (splitShift x .two) = permute Config.tables.P8 (splitShift y .two)) :
    x = y := by
  have hlisted : ∀ p : Position 10, p = 0 ∨ p = 1 ∨ p ∈ Config.tables.P8.toList := by decide
  have h0 (v : BitVec 10) : posBit (splitShift v .two) 3 = posBit v 0 :=
    getLsbD_splitShift_high v .two (j := 4) (by decide)
  have h1 (v : BitVec 10) : posBit (splitShift v .two) 4 = posBit v 1 :=
    getLsbD_splitShift_high v .two (j := 3) (by decide)
  refine eq_of_posBit fun p => ?_
  obtain rfl | rfl | hp := hlisted p
  · rw [← h0, posBit_eq_of_permute_eq hshifted (by decide), h0]
  · rw [← h1, posBit_eq_of_permute_eq hshifted (by decide), h1]
  · exact posBit_eq_of_permute_eq h hp

/-- 41_key_schedule.md R134, R136: the subkeys give back the state they were cut from, and its stages lose nothing. -/
theorem genKey_injective_of_default : Function.Injective (genKey Config.tables) := by
  intro k₁ k₂ h
  obtain ⟨hsk1, hsk2⟩ := Prod.mk.inj h
  have hls1 := eq_of_P8_eq_of_P8_shifted_eq hsk1 hsk2
  have hP10 : ListsEachOnce Config.tables.P10 := by decide
  exact permute_injective_of_listsEachOnce hP10 (splitShift_injective .one hls1)

/-- 00_scope.md R14: a concatenation determines its two parts. -/
theorem eq_and_eq_of_append_eq {m n : Nat} {a c : BitVec m} {b d : BitVec n} (h : a ++ b = c ++ d) : a = c ∧ b = d := by
  have hleft := congrArg (BitVec.extractLsb' n m) h
  have hright := congrArg (BitVec.extractLsb' 0 n) h
  rw [BitVec.extractLsb'_append_eq_left, BitVec.extractLsb'_append_eq_left] at hleft
  rw [BitVec.extractLsb'_append_eq_right, BitVec.extractLsb'_append_eq_right] at hright
  exact ⟨hleft, hright⟩

/-- 41_key_schedule.md R136: GENKEY ends with SK1 above SK2. -/
theorem exec_genkey (key : MasterKey) (s : State) :
    exec (.genkey key) s = finish ((genKey s.tables key).1 ++ (genKey s.tables key).2) s := rfl

/-- Settles O30: RESULT holds the two subkeys side by side, and they determine the key. -/
theorem subkeyPairDeterminesKeyByDefault : Obligations.SubkeyPairDeterminesKeyByDefault := by
  intro s hs k₁ k₂ v h₁ h₂
  obtain rfl := (completesWith_of_exec_eq_finish (exec_genkey k₂ s)).value_unique h₂
  obtain ⟨hsk1, hsk2⟩ := eq_and_eq_of_append_eq ((completesWith_zext32_iff (by decide) (exec_genkey k₁ s)).1 h₁)
  exact genKey_injective_of_default (hs ▸ Prod.ext hsk1 hsk2)

/-! ## The stages of F, and SW -/

/-- Settles O32: the value of each stage is the value of the unit function, and F is their composition. -/
theorem roundFunctionIsItsStages : Obligations.RoundFunctionIsItsStages := by
  intro s sk nib e l r out hep hs0 hs1 hp4
  have he : permute s.tables.EP nib = e := (completesWith_zext32_iff (by decide) rfl).1 hep
  have hl : sboxLookup s.tables.S0 (hi4 (e ^^^ sk)) = l := (completesWith_zext32_iff (by decide) rfl).1 hs0
  have hr : sboxLookup s.tables.S1 (lo4 (e ^^^ sk)) = r := (completesWith_zext32_iff (by decide) rfl).1 hs1
  have hout : permute s.tables.P4 (l ++ r) = out := (completesWith_zext32_iff (by decide) rfl).1 hp4
  have hround : roundF s.tables nib sk = out := by rw [roundF, he, hl, hr, hout]
  exact (completesWith_zext32_iff (by decide) rfl).2 hround

/-- Settles O34: the halves of SW's result, and SW as an involution. -/
theorem swSwapsHalves : Obligations.SwSwapsHalves := by
  refine fun s blk => ⟨switchHalves blk, completesWith_of_exec_eq_finish rfl, ?high, ?low, ?undo⟩
  case high => exact hi4_append (lo4 blk) (hi4 blk)
  case low => exact lo4_append (lo4 blk) (hi4 blk)
  case undo => exact (completesWith_zext32_iff (by decide) rfl).2 (switchHalves_involutive blk)

end Sys2Proof.Machine
